-- ==== Sys2Proof/Word.lean ====
section
/-! DEFINITION. The word types of the core (spec/00_scope.md rules R7, R8): every value is unsigned. -/

namespace Sys2Proof

/-- An 8-bit value: a byte of `MEM`, a general register, `DT`, `ST`, the field `kk`. -/
abbrev Byte := BitVec 8

/-- A 16-bit value: an instruction word, `I`, `pc`, a stack entry, `halt_info`. -/
abbrev Word := BitVec 16

/-- A 4-bit field of an instruction word: `u`, `x`, `y`, `n`. -/
abbrev Nibble := BitVec 4

/-- The 12-bit field `nnn`. -/
abbrev Addr := BitVec 12

end Sys2Proof
end

