-- ==== Sys2Proof/Syntax.lean ====
section
/-! DEFINITION. The core's instruction set as data: one constructor of `Instr` per row of spec/opcode_table.json, the
operation tags of spec/30_encoding.md rule R95, and the decoded Instruction of spec/40_decode_dispatch.md rule R122. -/

namespace Sys2Proof

/-- The 34 recognised instructions (R96), with their operand fields.
The nibbles the table calls ignored (`x` of CLEAR and RET, `n` of SKE and SKNE, `y` of SHR and SHL) are kept, so that an
instruction and its word determine each other; no executor reads them (log 2).
UNRECOGNIZED is no row of the table and no constructor (log 1). -/
inductive Instr where
  /-- `0-E0` (R210) -/
  | clear (x : Nibble)
  /-- `0-EE` (R140) -/
  | ret (x : Nibble)
  /-- `1nnn` (R141) -/
  | jmp (nnn : Addr)
  /-- `2nnn` (R142) -/
  | call (nnn : Addr)
  /-- `3xkk` (R143) -/
  | skei (x : Nibble) (kk : Byte)
  /-- `4xkk` (R144) -/
  | sknei (x : Nibble) (kk : Byte)
  /-- `5xy-` (R145) -/
  | ske (x y n : Nibble)
  /-- `6xkk` (R160) -/
  | movi (x : Nibble) (kk : Byte)
  /-- `7xkk` (R161) -/
  | addi (x : Nibble) (kk : Byte)
  /-- `8xy0` (R162) -/
  | mov (x y : Nibble)
  /-- `8xy1` (R163) -/
  | or (x y : Nibble)
  /-- `8xy2` (R164) -/
  | and (x y : Nibble)
  /-- `8xy3` (R165) -/
  | xor (x y : Nibble)
  /-- `8xy4` (R166) -/
  | add (x y : Nibble)
  /-- `8xy5` (R167) -/
  | sub (x y : Nibble)
  /-- `8x-6` (R168) -/
  | shr (x y : Nibble)
  /-- `8xy7` (R169) -/
  | subn (x y : Nibble)
  /-- `8x-E` (R170) -/
  | shl (x y : Nibble)
  /-- `9xy-` (R146) -/
  | skne (x y n : Nibble)
  /-- `Annn` (R190) -/
  | seti (nnn : Addr)
  /-- `Bnnn` (R148) -/
  | jmpv (nnn : Addr)
  /-- `Cxkk` (R171) -/
  | rnd (x : Nibble) (kk : Byte)
  /-- `Dxyn` (R211) -/
  | draw (x y n : Nibble)
  /-- `Ex9E` (R230) -/
  | skp (x : Nibble)
  /-- `ExA1` (R231) -/
  | sknp (x : Nibble)
  /-- `Fx07` (R232) -/
  | getdt (x : Nibble)
  /-- `Fx0A` (R233) -/
  | waitk (x : Nibble)
  /-- `Fx15` (R234) -/
  | setdt (x : Nibble)
  /-- `Fx18` (R235) -/
  | setst (x : Nibble)
  /-- `Fx1E` (R191) -/
  | iadd (x : Nibble)
  /-- `Fx29` (R192) -/
  | font (x : Nibble)
  /-- `Fx33` (R193) -/
  | bcd (x : Nibble)
  /-- `Fx55` (R196) -/
  | stm (x : Nibble)
  /-- `Fx65` (R197) -/
  | ldm (x : Nibble)
deriving DecidableEq, Repr

/-- The operation tags (R95): 34 recognised kinds and UNRECOGNIZED, in the order of the ordinals. -/
inductive Tag where
  | clear | ret | jmp | call | skei | sknei | ske
  | movi | addi | mov | or | and | xor | add
  | sub | shr | subn | shl | skne | seti | jmpv
  | rnd | draw | skp | sknp | getdt | waitk | setdt
  | setst | iadd | font | bcd | stm | ldm | unrecognized
deriving DecidableEq, Repr

/-- The decoded Instruction of rule R122: the raw word, the six overlapping fields, and the operation tag. -/
structure Instruction where
  word : Word
  u : Nibble
  x : Nibble
  y : Nibble
  n : Nibble
  kk : Byte
  nnn : Addr
  tag : Tag
deriving DecidableEq, Repr

/-- A row of the opcode table (R96): a word `w` selects it when `w & mask = pattern` (the table's `match`). -/
structure Row where
  tag : Tag
  pattern : Word
  mask : Word
deriving DecidableEq, Repr

/-- Why a byte string gives no instruction of the table. -/
inductive DecodeError where
  /-- Fewer than two bytes: an instruction is two bytes long (R90). -/
  | tooShort
  /-- The word selects no row (R98): UNRECOGNIZED, which is no error of the machine (R99). -/
  | unrecognized (word : Word)
deriving DecidableEq, Repr

end Sys2Proof
end

