-- ==== Sys2Proof/WellFormed.lean ====
section
/-! DEFINITION. Which instructions are well formed: those the assembler of spec/30_encoding.md rule R108 can write.

The widths of the fields are in their types. What is left to check is R108's "a don't-care nibble is assembled as 0":
one check for each instruction that has an ignored nibble. The machine runs every instruction the decoder gives,
well formed or not (R109, log 2). -/

namespace Sys2Proof

/-- Rule R108: an ignored nibble is 0. -/
def Instr.wellFormed : Instr → Bool
  | .clear x => x == 0
  | .ret x => x == 0
  | .jmp _ => true
  | .call _ => true
  | .skei _ _ => true
  | .sknei _ _ => true
  | .ske _ _ n => n == 0
  | .movi _ _ => true
  | .addi _ _ => true
  | .mov _ _ => true
  | .or _ _ => true
  | .and _ _ => true
  | .xor _ _ => true
  | .add _ _ => true
  | .sub _ _ => true
  | .shr _ y => y == 0
  | .subn _ _ => true
  | .shl _ y => y == 0
  | .skne _ _ n => n == 0
  | .seti _ => true
  | .jmpv _ => true
  | .rnd _ _ => true
  | .draw _ _ _ => true
  | .skp _ => true
  | .sknp _ => true
  | .getdt _ => true
  | .waitk _ => true
  | .setdt _ => true
  | .setst _ => true
  | .iadd _ => true
  | .font _ => true
  | .bcd _ => true
  | .stm _ => true
  | .ldm _ => true

/-- An instruction the assembler can write (R108). -/
abbrev Instr.WellFormed (i : Instr) : Prop := i.wellFormed = true

end Sys2Proof
end

