-- ==== Sys2Proof/Decode.lean ====
section
/-! DEFINITION. The Word Decoder (spec/30_encoding.md rules R90 to R98, spec/40_decode_dispatch.md rules R122, R127), the
opcode table as data, and the encoder. -/

namespace Sys2Proof

/-- `u = w[15:12]` (R8) -/
def fieldU (w : Word) : Nibble := w.extractLsb' 12 4
/-- `x = w[11:8]` (R8) -/
def fieldX (w : Word) : Nibble := w.extractLsb' 8 4
/-- `y = w[7:4]` (R8) -/
def fieldY (w : Word) : Nibble := w.extractLsb' 4 4
/-- `n = w[3:0]` (R8) -/
def fieldN (w : Word) : Nibble := w.extractLsb' 0 4
/-- `kk = w[7:0]` (R8) -/
def fieldKK (w : Word) : Byte := w.extractLsb' 0 8
/-- `nnn = w[11:0]` (R8) -/
def fieldNNN (w : Word) : Addr := w.extractLsb' 0 12

/-- The word made of the byte at the lower address and the byte after it: big-endian (R66, R90). -/
def wordOfBytes (hi lo : Byte) : Word := hi.setWidth 16 <<< 8 ||| lo.setWidth 16
/-- The byte at the lower address (R66). -/
def highByte (w : Word) : Byte := w.extractLsb' 8 8
/-- The byte at the higher address (R66). -/
def lowByte (w : Word) : Byte := w.extractLsb' 0 8

/-- Class 0x0, keyed by `kk` (R94). -/
def classify0 (kk : Byte) : Tag :=
  match kk with
  | 0xE0#8 => .clear
  | 0xEE#8 => .ret
  | _ => .unrecognized

/-- Class 0x8, keyed by `n` (R94; the pairing is the spec's D3). -/
def classify8 (n : Nibble) : Tag :=
  match n with
  | 0x0#4 => .mov
  | 0x1#4 => .or
  | 0x2#4 => .and
  | 0x3#4 => .xor
  | 0x4#4 => .add
  | 0x5#4 => .sub
  | 0x6#4 => .shr
  | 0x7#4 => .subn
  | 0xE#4 => .shl
  | _ => .unrecognized

/-- Class 0xE, keyed by `kk` (R94). -/
def classifyE (kk : Byte) : Tag :=
  match kk with
  | 0x9E#8 => .skp
  | 0xA1#8 => .sknp
  | _ => .unrecognized

/-- Class 0xF, keyed by `kk` (R94). PRESUMED (log 13): the spec takes this pairing from general knowledge of the family
(D3, G2). -/
def classifyF (kk : Byte) : Tag :=
  match kk with
  | 0x07#8 => .getdt
  | 0x0A#8 => .waitk
  | 0x15#8 => .setdt
  | 0x18#8 => .setst
  | 0x1E#8 => .iadd
  | 0x29#8 => .font
  | 0x33#8 => .bcd
  | 0x55#8 => .stm
  | 0x65#8 => .ldm
  | _ => .unrecognized

/-- `Classify` of rule R94: `u` first, then `kk` or `n` in the four polymorphic classes. -/
def classify (w : Word) : Tag :=
  match fieldU w with
  | 0x0#4 => classify0 (fieldKK w)
  | 0x1#4 => .jmp
  | 0x2#4 => .call
  | 0x3#4 => .skei
  | 0x4#4 => .sknei
  | 0x5#4 => .ske
  | 0x6#4 => .movi
  | 0x7#4 => .addi
  | 0x8#4 => classify8 (fieldN w)
  | 0x9#4 => .skne
  | 0xA#4 => .seti
  | 0xB#4 => .jmpv
  | 0xC#4 => .rnd
  | 0xD#4 => .draw
  | 0xE#4 => classifyE (fieldKK w)
  | _ => classifyF (fieldKK w)

/-- `Decode(word)` of rule R122: every field is extracted for every word. -/
def decodeWord (w : Word) : Instruction :=
  { word := w, u := fieldU w, x := fieldX w, y := fieldY w, n := fieldN w, kk := fieldKK w, nnn := fieldNNN w,
    tag := classify w }

/-- The instruction an Instruction record stands for, with the fields its format uses (R92); none for UNRECOGNIZED. -/
def Instruction.toInstr (d : Instruction) : Option Instr :=
  match d.tag with
  | .clear => some (.clear d.x)
  | .ret => some (.ret d.x)
  | .jmp => some (.jmp d.nnn)
  | .call => some (.call d.nnn)
  | .skei => some (.skei d.x d.kk)
  | .sknei => some (.sknei d.x d.kk)
  | .ske => some (.ske d.x d.y d.n)
  | .movi => some (.movi d.x d.kk)
  | .addi => some (.addi d.x d.kk)
  | .mov => some (.mov d.x d.y)
  | .or => some (.or d.x d.y)
  | .and => some (.and d.x d.y)
  | .xor => some (.xor d.x d.y)
  | .add => some (.add d.x d.y)
  | .sub => some (.sub d.x d.y)
  | .shr => some (.shr d.x d.y)
  | .subn => some (.subn d.x d.y)
  | .shl => some (.shl d.x d.y)
  | .skne => some (.skne d.x d.y d.n)
  | .seti => some (.seti d.nnn)
  | .jmpv => some (.jmpv d.nnn)
  | .rnd => some (.rnd d.x d.kk)
  | .draw => some (.draw d.x d.y d.n)
  | .skp => some (.skp d.x)
  | .sknp => some (.sknp d.x)
  | .getdt => some (.getdt d.x)
  | .waitk => some (.waitk d.x)
  | .setdt => some (.setdt d.x)
  | .setst => some (.setst d.x)
  | .iadd => some (.iadd d.x)
  | .font => some (.font d.x)
  | .bcd => some (.bcd d.x)
  | .stm => some (.stm d.x)
  | .ldm => some (.ldm d.x)
  | .unrecognized => none

/-- The instruction of a word; none where the word is UNRECOGNIZED (R98). -/
def decode (w : Word) : Option Instr := (decodeWord w).toInstr

/-- The decoder on a string of bytes: the first two make the word (R66), the rest is handed back. -/
def decodeBytes : List Byte → Except DecodeError (Instr × List Byte)
  | hi :: lo :: rest =>
    match decode (wordOfBytes hi lo) with
    | some i => .ok (i, rest)
    | none => .error (.unrecognized (wordOfBytes hi lo))
  | _ => .error .tooShort

/-- The 6-bit ordinal of a tag (R95; the numbering is the spec's D19). -/
def Tag.ordinal : Tag → BitVec 6
  | .clear => 0 | .ret => 1 | .jmp => 2 | .call => 3 | .skei => 4 | .sknei => 5 | .ske => 6
  | .movi => 7 | .addi => 8 | .mov => 9 | .or => 10 | .and => 11 | .xor => 12 | .add => 13
  | .sub => 14 | .shr => 15 | .subn => 16 | .shl => 17 | .skne => 18 | .seti => 19 | .jmpv => 20
  | .rnd => 21 | .draw => 22 | .skp => 23 | .sknp => 24 | .getdt => 25 | .waitk => 26 | .setdt => 27
  | .setst => 28 | .iadd => 29 | .font => 30 | .bcd => 31 | .stm => 32 | .ldm => 33 | .unrecognized => 34

/-- The rows of classes 0x0 to 0x7 of the opcode table (R96). -/
def tableRows0to7 : List Row :=
  [⟨.clear, 0x00E0, 0xF0FF⟩, ⟨.ret, 0x00EE, 0xF0FF⟩, ⟨.jmp, 0x1000, 0xF000⟩, ⟨.call, 0x2000, 0xF000⟩,
   ⟨.skei, 0x3000, 0xF000⟩, ⟨.sknei, 0x4000, 0xF000⟩, ⟨.ske, 0x5000, 0xF000⟩, ⟨.movi, 0x6000, 0xF000⟩,
   ⟨.addi, 0x7000, 0xF000⟩]

/-- The rows of class 0x8 (R96). -/
def tableRows8 : List Row :=
  [⟨.mov, 0x8000, 0xF00F⟩, ⟨.or, 0x8001, 0xF00F⟩, ⟨.and, 0x8002, 0xF00F⟩, ⟨.xor, 0x8003, 0xF00F⟩,
   ⟨.add, 0x8004, 0xF00F⟩, ⟨.sub, 0x8005, 0xF00F⟩, ⟨.shr, 0x8006, 0xF00F⟩, ⟨.subn, 0x8007, 0xF00F⟩,
   ⟨.shl, 0x800E, 0xF00F⟩]

/-- The rows of classes 0x9 to 0xE (R96). -/
def tableRows9toE : List Row :=
  [⟨.skne, 0x9000, 0xF000⟩, ⟨.seti, 0xA000, 0xF000⟩, ⟨.jmpv, 0xB000, 0xF000⟩, ⟨.rnd, 0xC000, 0xF000⟩,
   ⟨.draw, 0xD000, 0xF000⟩, ⟨.skp, 0xE09E, 0xF0FF⟩, ⟨.sknp, 0xE0A1, 0xF0FF⟩]

/-- The rows of class 0xF (R96). -/
def tableRowsF : List Row :=
  [⟨.getdt, 0xF007, 0xF0FF⟩, ⟨.waitk, 0xF00A, 0xF0FF⟩, ⟨.setdt, 0xF015, 0xF0FF⟩, ⟨.setst, 0xF018, 0xF0FF⟩,
   ⟨.iadd, 0xF01E, 0xF0FF⟩, ⟨.font, 0xF029, 0xF0FF⟩, ⟨.bcd, 0xF033, 0xF0FF⟩, ⟨.stm, 0xF055, 0xF0FF⟩,
   ⟨.ldm, 0xF065, 0xF0FF⟩]

/-- The opcode table of rule R96, 34 rows. -/
def opcodeTable : List Row := tableRows0to7 ++ tableRows8 ++ tableRows9toE ++ tableRowsF

/-- A word selects a row (R96). -/
def Row.selects (r : Row) (w : Word) : Bool := w &&& r.mask == r.pattern

/-- Format `A` (R92): `uuuu nnnn nnnn nnnn`. -/
def wordA (u : Nibble) (nnn : Addr) : Word := u.setWidth 16 <<< 12 ||| nnn.setWidth 16
/-- Formats `XK`, `XO` and `Z` (R92): `uuuu xxxx kkkk kkkk`. -/
def wordXK (u x : Nibble) (kk : Byte) : Word :=
  u.setWidth 16 <<< 12 ||| x.setWidth 16 <<< 8 ||| kk.setWidth 16
/-- Formats `XY`, `XYO` and `XYN` (R92): `uuuu xxxx yyyy nnnn`. -/
def wordXYN (u x y n : Nibble) : Word :=
  u.setWidth 16 <<< 12 ||| x.setWidth 16 <<< 8 ||| y.setWidth 16 <<< 4 ||| n.setWidth 16

/-- The word of an instruction (R92, R108): its class and sub-opcode from the table, its fields in their places, an ignored
nibble as the instruction carries it. -/
def encode : Instr → Word
  | .clear x => wordXK 0x0 x 0xE0
  | .ret x => wordXK 0x0 x 0xEE
  | .jmp nnn => wordA 0x1 nnn
  | .call nnn => wordA 0x2 nnn
  | .skei x kk => wordXK 0x3 x kk
  | .sknei x kk => wordXK 0x4 x kk
  | .ske x y n => wordXYN 0x5 x y n
  | .movi x kk => wordXK 0x6 x kk
  | .addi x kk => wordXK 0x7 x kk
  | .mov x y => wordXYN 0x8 x y 0x0
  | .or x y => wordXYN 0x8 x y 0x1
  | .and x y => wordXYN 0x8 x y 0x2
  | .xor x y => wordXYN 0x8 x y 0x3
  | .add x y => wordXYN 0x8 x y 0x4
  | .sub x y => wordXYN 0x8 x y 0x5
  | .shr x y => wordXYN 0x8 x y 0x6
  | .subn x y => wordXYN 0x8 x y 0x7
  | .shl x y => wordXYN 0x8 x y 0xE
  | .skne x y n => wordXYN 0x9 x y n
  | .seti nnn => wordA 0xA nnn
  | .jmpv nnn => wordA 0xB nnn
  | .rnd x kk => wordXK 0xC x kk
  | .draw x y n => wordXYN 0xD x y n
  | .skp x => wordXK 0xE x 0x9E
  | .sknp x => wordXK 0xE x 0xA1
  | .getdt x => wordXK 0xF x 0x07
  | .waitk x => wordXK 0xF x 0x0A
  | .setdt x => wordXK 0xF x 0x15
  | .setst x => wordXK 0xF x 0x18
  | .iadd x => wordXK 0xF x 0x1E
  | .font x => wordXK 0xF x 0x29
  | .bcd x => wordXK 0xF x 0x33
  | .stm x => wordXK 0xF x 0x55
  | .ldm x => wordXK 0xF x 0x65

/-- The two bytes of a word as memory holds them, the first at the lower address (R66). -/
def bytesOfWord (w : Word) : List Byte := [highByte w, lowByte w]

/-- The bytes of an instruction. -/
def encodeBytes (i : Instr) : List Byte := bytesOfWord (encode i)

/-- The tag of an instruction. -/
def Instr.tag : Instr → Tag
  | .clear _ => .clear
  | .ret _ => .ret
  | .jmp _ => .jmp
  | .call _ => .call
  | .skei _ _ => .skei
  | .sknei _ _ => .sknei
  | .ske _ _ _ => .ske
  | .movi _ _ => .movi
  | .addi _ _ => .addi
  | .mov _ _ => .mov
  | .or _ _ => .or
  | .and _ _ => .and
  | .xor _ _ => .xor
  | .add _ _ => .add
  | .sub _ _ => .sub
  | .shr _ _ => .shr
  | .subn _ _ => .subn
  | .shl _ _ => .shl
  | .skne _ _ _ => .skne
  | .seti _ => .seti
  | .jmpv _ => .jmpv
  | .rnd _ _ => .rnd
  | .draw _ _ _ => .draw
  | .skp _ => .skp
  | .sknp _ => .sknp
  | .getdt _ => .getdt
  | .waitk _ => .waitk
  | .setdt _ => .setdt
  | .setst _ => .setst
  | .iadd _ => .iadd
  | .font _ => .font
  | .bcd _ => .bcd
  | .stm _ => .stm
  | .ldm _ => .ldm

/-- The word of a row of the opcode table as its number gives it: the low 16 of `nbits` bits, the others 0. -/
def tableWord (nbits w : Nat) : Word := BitVec.ofNat 16 (w % 2 ^ nbits)

/-- The instruction the decoder reads from the bytes of a table word laid out as memory holds them; none where it gives
no instruction of the table. -/
def decodeTableWord (nbits w : Nat) : Option Instr :=
  match decodeBytes (bytesOfWord (tableWord nbits w)) with
  | .ok (i, _) => some i
  | .error _ => none

end Sys2Proof
end

