-- ==== Sys2Proof/Config.lean ====
section
/-! DEFINITION. What an implementation fixes (spec/00_scope.md rule R7), and the free values of the inputs.

The parameters are a structure, and the machine's state carries one (`State.config`) that no step changes: a claim about
every state is then a claim about every font and every tick period. -/

namespace Sys2Proof.Config

/-- The OPEN parameters the rules depend on (R7): `FONT_ROM` and `TICK_PERIOD_US`.
`CYCLES_PER_SECOND` is not modelled: no rule depends on it (R300). -/
structure Params where
  /-- `FONT_ROM`: glyph `g`, row `r` (R37). -/
  fontRom : Vector (Vector Byte 5) 16
  /-- `TICK_PERIOD_US`, in microseconds (R260). -/
  tickPeriodUs : Nat
deriving DecidableEq, Repr

/-- The default table of rule R37. PRESUMED (log 6): the spec itself marks the glyphs' shapes as general knowledge of the
family, and no rule depends on them. -/
def defaultFont : Vector (Vector Byte 5) 16 :=
  #v[#v[0xF0, 0x90, 0x90, 0x90, 0xF0],
     #v[0x20, 0x60, 0x20, 0x20, 0x70],
     #v[0xF0, 0x10, 0xF0, 0x80, 0xF0],
     #v[0xF0, 0x10, 0xF0, 0x10, 0xF0],
     #v[0x90, 0x90, 0xF0, 0x10, 0x10],
     #v[0xF0, 0x80, 0xF0, 0x10, 0xF0],
     #v[0xF0, 0x80, 0xF0, 0x90, 0xF0],
     #v[0xF0, 0x10, 0x20, 0x40, 0x40],
     #v[0xF0, 0x90, 0xF0, 0x90, 0xF0],
     #v[0xF0, 0x90, 0xF0, 0x10, 0xF0],
     #v[0xF0, 0x90, 0xF0, 0x90, 0x90],
     #v[0xE0, 0x90, 0xE0, 0x90, 0xE0],
     #v[0xF0, 0x80, 0x80, 0x80, 0xF0],
     #v[0xE0, 0x90, 0x90, 0x90, 0xE0],
     #v[0xF0, 0x80, 0xF0, 0x80, 0xF0],
     #v[0xF0, 0x80, 0xF0, 0x80, 0x80]]

/-- The parameters at the spec's defaults (R7): the font of R37 (log 6) and a tick of 16666 microseconds (D12, log 7). -/
def Params.default : Params := { fontRom := defaultFont, tickPeriodUs := 16666 }

/-- FREE VALUE (log 4): how much time passes before a cycle whose time the world's script does not give.
R260 lets the environment decide it. -/
opaque elapsedUs : Nat → Nat

/-- FREE VALUE (log 5): the byte the random source presents in a cycle whose byte the world's script does not give.
R271 puts no law on it. -/
opaque randByte : Nat → Byte

end Sys2Proof.Config
end

