-- ==== Sys2Proof/Machine/State.lean ====
section
/-! DEFINITION. The machine's state as plain data (spec/10_state.md), the reasons a step can stop, and the state after
reset (rule R38). -/

namespace Sys2Proof.Machine

/-- The halting conditions (R250). `raise` enters them; none has a handler (R257). -/
inductive Halt where
  /-- code 1, raised by the fetch check (R251) -/
  | pcOutOfRange
  /-- code 2, raised by `CALL` (R252) -/
  | stackOverflow
  /-- code 3, raised by `RET` (R253) -/
  | stackUnderflow
  /-- code 4, raised by `BCD`, `STM`, `LDM`, `DRAW` (R254) -/
  | memOutOfRange
deriving DecidableEq, Repr

/-- One move of the world outside the core: the host's actions between two cycles (R267 to R270), or letting one cycle run
with the inputs of that cycle (R120). -/
inductive HostMove where
  /-- One cycle, `elapsedUs` microseconds after the last reading of the time base (R260), with this random byte (R271). -/
  | run (elapsedUs : Nat) (randByte : Byte)
  /-- `KEYS <- keys_in` (R269). -/
  | keys (down : Vector Bool 16)
  /-- The host takes a frame: `redraw_pending <- 0` (R268). -/
  | present
  /-- The host ends the run (R270). -/
  | quit
  /-- The host asserts `reset` (R290). -/
  | reset
  /-- The host writes a ROM image through the load port (R267, R67). -/
  | load (image : List Byte)
deriving DecidableEq, Repr

/-- What the world outside presents to the core. MODEL's own (log 3): none of it is state of rule R20. -/
structure World where
  /-- The present reading of the time base; it never decreases (R260). -/
  nowUs : Nat
  /-- The port `rand_byte` in the present cycle (R271). -/
  randByte : Byte
  /-- The moves to come, oldest first. Where it is empty, cycles run on free inputs. -/
  script : List HostMove
  /-- Counts the cycles that ran on free inputs. -/
  freeIndex : Nat
  /-- A cycle has run since reset: the load port is closed (R267). -/
  started : Bool
  /-- The host has asserted `quit` (R270). -/
  quit : Bool
deriving DecidableEq, Repr

/-- The bytes of `MEM` that differ from what an unlisted address reads as, by address (log 22). -/
abbrev Memory := List Host.Cell

/-- `FB` (R30): 32 rows of 64 one-bit pixels; the pixel of column `px` is bit `px` of its row (log 23). -/
abbrev Frame := Vector (BitVec 64) 32

/-- The complete state of the core (R20), the implementation's parameters (R7), and the world's side. -/
structure State where
  /-- `V[0]`..`V[15]` (R21) -/
  v : Vector Byte 16
  /-- `I` (R24) -/
  i : Word
  /-- `pc` (R25) -/
  pc : Word
  /-- `DT` (R27) -/
  dt : Byte
  /-- `ST` (R27) -/
  st : Byte
  /-- `STACK[0]`..`STACK[15]` (R28) -/
  stack : Vector Word 16
  /-- `SP`, 0 when the stack is empty (R28) -/
  sp : Nibble
  /-- `MEM` (R29, R60) -/
  mem : Memory
  /-- `FB` (R30) -/
  fb : Frame
  /-- `KEYS[0]`..`KEYS[15]`, true when down (R31) -/
  keys : Vector Bool 16
  /-- `redraw_pending` (R32) -/
  redrawPending : Bool
  /-- `halted` (R33) -/
  halted : Bool
  /-- `halt_cause` (R33, R250) -/
  haltCause : BitVec 3
  /-- `halt_info` (R33, R250) -/
  haltInfo : Word
  /-- `last_tick`, microseconds (R34) -/
  lastTick : Nat
  /-- The output `beep` in the most recent cycle (R263) -/
  beep : Bool
  /-- `FONT_ROM` and `TICK_PERIOD_US` (R7); no step changes it -/
  config : Config.Params
  /-- The world outside the core -/
  world : World
deriving DecidableEq, Repr

/-- Reasons a step ends in a fault. The four halting conditions are not among them: the spec describes their entry, so a
halt is a next state (`State.raise`, log 8). -/
inductive Fault where
  /-- Raised by `step` when the host has ended the run: no further cycle runs and the Machine State is discarded (R270), so
  there is no next state. Safe (log 18). -/
  | runEnded
deriving DecidableEq, Repr

/-- Reasons a step is refused: moves of the host that the spec gives it no access for (R272). No instruction raises one. -/
inductive Refusal where
  /-- An instruction with no meaning yet; no arm of `exec` answers it any more. Safe. -/
  | notModelled (mnemonic : String)
  /-- Raised by the host move `load` on an image of more than 3584 bytes: the loader refuses it and the core never sees it
  (R67). Safe (log 19). -/
  | romTooLarge
  /-- Raised by the host move `load` once a cycle has run: the load port cannot be used then (R267). Safe (log 19). -/
  | loadAfterStart
deriving DecidableEq, Repr

/-- What an executor, a cycle or a step answers. -/
abbrev Result := Host.Outcome State Fault Refusal

/-- The world at the first reset: time at the origin of the time base, no move announced (log 3, log 4, log 5). -/
def World.atReset : World :=
  { nowUs := 0, randByte := 0, script := [], freeIndex := 0, started := false, quit := false }

/-- The machine right after reset (R38), before the host loads a ROM: everything zero but `pc` and the font, which is what
an unlisted low address reads as. `last_tick` is the time of the reset. -/
def State.reset : State :=
  { v := Vector.replicate 16 0
    i := 0
    pc := 0x200
    dt := 0
    st := 0
    stack := Vector.replicate 16 0
    sp := 0
    mem := []
    fb := Vector.replicate 32 0
    keys := Vector.replicate 16 false
    redrawPending := false
    halted := false
    haltCause := 0
    haltInfo := 0
    lastTick := World.atReset.nowUs
    beep := false
    config := Config.Params.default
    world := World.atReset }

end Sys2Proof.Machine
end

