-- ==== Sys2Proof/Machine/Ops.lean ====
section
/-! DEFINITION. The named operations over registers, memory, the stack and the halt latches: every executor reads and
writes the state through these. -/

namespace Sys2Proof.Machine

/-! ### Registers (spec/10_state.md) -/

/-- Read `V[x]` (R21). -/
def State.getV (s : State) (x : Nibble) : Byte := s.v[x.toNat]'(by have := x.isLt; omega)

/-- `V[x] <- b` (R21): no register is hardwired or read-only, `V[15]` included (R22). -/
def State.setV (s : State) (x : Nibble) (b : Byte) : State :=
  { s with v := s.v.set x.toNat b (by have := x.isLt; omega) }

/-- `V[k] <- bs[k]` for every `k` below the length of `bs`; the registers above keep their values. -/
def State.setVs (s : State) (bs : List Byte) : State :=
  { s with v := Vector.ofFn fun k : Fin 16 => bs.getD k.val s.v[k] }

/-- `I <- w` (R24). -/
def State.setI (s : State) (w : Word) : State := { s with i := w }

/-- `pc <- w` (R25). -/
def State.setPc (s : State) (w : Word) : State := { s with pc := w }

/-- `pc <- pc + 2`, the contract of every executor that does not transfer control (R124). -/
def State.advance (s : State) : State := s.setPc (s.pc + 2)

/-- The skip contract (R124): `pc + 4` if the condition holds, else `pc + 2`. -/
def State.skipIf (s : State) (c : Bool) : State := s.setPc (if c then s.pc + 4 else s.pc + 2)

/-- `DT <- b` (R27). -/
def State.setDT (s : State) (b : Byte) : State := { s with dt := b }

/-- `ST <- b` (R27). -/
def State.setST (s : State) (b : Byte) : State := { s with st := b }

/-- Replace the frame buffer and set `redraw_pending` (R32, R215): what `CLEAR` and `DRAW` do to the display. -/
def State.setFrame (s : State) (f : Frame) : State := { s with fb := f, redrawPending := true }

/-! ### Stack (R28) -/

/-- The entry `SP` indexes: the top entry when `SP` is not 0. -/
def State.stackTop (s : State) : Word := s.stack[s.sp.toNat]'(by have := s.sp.isLt; omega)

/-- `SP <- SP + 1; STACK[SP] <- ret`, for `SP` below 15 (R142). -/
def State.pushReturn (s : State) (ret : Word) : State :=
  { s with sp := s.sp + 1, stack := s.stack.set (s.sp + 1).toNat ret (by have := (s.sp + 1).isLt; omega) }

/-- `SP <- SP - 1`, for `SP` above 0; the popped entry is not erased (R28). -/
def State.dropReturn (s : State) : State := { s with sp := s.sp - 1 }

/-! ### Memory (spec/20_memory.md) -/

/-- What an address that is not listed reads as: the reset contents (R38), `FONT_ROM` at 0x000 to 0x04F and 0 elsewhere. -/
def Memory.resetByte (c : Config.Params) (a : Nat) : Byte :=
  if h : a < 80 then (c.fontRom[a / 5]'(by omega))[a % 5]'(by omega) else 0

/-- The byte listed for an address. -/
def Memory.lookup : Memory → Nat → Option Byte
  | [], _ => none
  | (k, b) :: m, a => if a = k then some b else Memory.lookup m a

/-- The list without an entry for an address. -/
def Memory.remove : Memory → Nat → Memory
  | [], _ => []
  | (k, b) :: m, a => if a = k then Memory.remove m a else (k, b) :: Memory.remove m a

/-- The list with an entry for an address in its place, instead of the one it had. -/
def Memory.insert : Memory → Nat → Byte → Memory
  | [], a, v => [(a, v)]
  | (k, b) :: m, a, v =>
    if a < k then (a, v) :: (k, b) :: m
    else if a = k then (a, v) :: m
    else (k, b) :: Memory.insert m a v

/-- `MemRead(a, 1)` (R64). -/
def Memory.read (c : Config.Params) (m : Memory) (a : Nat) : Byte := (Memory.lookup m a).getD (Memory.resetByte c a)

/-- `MemWrite(a, 1, v)` (R65). An address beyond 0xFFF does not exist (R60); every caller has checked its range before. -/
def Memory.write (c : Config.Params) (m : Memory) (a : Nat) (v : Byte) : Memory :=
  if a < 4096 then
    if v = Memory.resetByte c a then Memory.remove m a else Memory.insert m a v
  else m

/-- The canonical form from an address on: addresses strictly rising and existing, no entry equal to the reset byte. -/
def Memory.wfFrom (c : Config.Params) : Nat → Memory → Bool
  | _, [] => true
  | lo, (k, b) :: m =>
    decide (lo ≤ k) && decide (k < 4096) && !(b == Memory.resetByte c k) && Memory.wfFrom c (k + 1) m

/-- The canonical form of a memory: equal contents are equal lists. -/
def Memory.wf (c : Config.Params) (m : Memory) : Bool := Memory.wfFrom c 0 m

/-- Read one byte of `MEM` (R64). -/
def State.readByte (s : State) (a : Nat) : Byte := Memory.read s.config s.mem a

/-- Write one byte of `MEM` (R65). -/
def State.writeByte (s : State) (a : Nat) (b : Byte) : State := { s with mem := Memory.write s.config s.mem a b }

/-- Read `n` bytes from `a` on, in ascending order (R68). -/
def State.readBytes (s : State) (a n : Nat) : List Byte := (List.range n).map fun k => s.readByte (a + k)

/-- Write bytes from `a` on, in ascending order (R68). -/
def State.writeBytes (s : State) (a : Nat) : List Byte → State
  | [] => s
  | b :: bs => State.writeBytes (s.writeByte a b) (a + 1) bs

/-- The fetch check (R70): only 0x200 to 0xFFE is fetched from, at any parity (R69). -/
def fetchable (pc : Word) : Bool := decide (0x200 ≤ pc.toNat ∧ pc.toNat ≤ 0xFFE)

/-- The word at `pc`, most-significant byte first (R66). -/
def State.fetchWord (s : State) : Word := wordOfBytes (s.readByte s.pc.toNat) (s.readByte (s.pc.toNat + 1))

/-! ### Halt entry (spec/60_exceptions.md rules R250, R256)

There is no return from a halt (R257): the one way out is reset, `hostReset` in Machine/HostMoves.lean. -/

/-- The cause code (R250). -/
def Halt.code : Halt → BitVec 3
  | .pcOutOfRange => 1
  | .stackOverflow => 2
  | .stackUnderflow => 3
  | .memOutOfRange => 4

/-- `raise H(info)` (R256): the three latches are written and nothing else changes; `pc` keeps its value. -/
def State.raise (s : State) (h : Halt) (info : Word) : State :=
  { s with halted := true, haltCause := h.code, haltInfo := info }

end Sys2Proof.Machine
end

