-- ==== Sys2Proof/Machine/Operands.lean ====
section
/-! DEFINITION. The operand forms (spec/30_encoding.md rule R93, spec/43_index_memory.md rule R194): immediates, the one
addressing mode with its range check, and key indices. -/

namespace Sys2Proof.Machine

/-- `zext_16(nnn)` (R93). -/
def zextAddr (nnn : Addr) : Word := nnn.setWidth 16

/-- `zext_16(b)` (R93). -/
def zextByte (b : Byte) : Word := b.setWidth 16

/-- The effective address `I + k` (R194): an unbounded sum, no wrap at 4096 or 65536. -/
def State.effAddr (s : State) (k : Nat) : Nat := s.i.toNat + k

/-- `MemCheck(I, len)` passes (R63). -/
def State.memCheck (s : State) (len : Nat) : Bool := !(decide (0 < len) && decide (4095 < s.i.toNat + len - 1))

/-- An instruction that touches `len` bytes from `I` on (R194): one check of the whole range before any effect; where it
fails, `Halt_MemOutOfRange` with `halt_info = I` and no other effect (R254). -/
def State.withMemCheck (s : State) (len : Nat) (effect : State) : Result :=
  .next (if s.memCheck len then effect else s.raise .memOutOfRange s.i)

/-- The bytes at `I`..`I + n - 1`. -/
def State.bytesAtI (s : State) (n : Nat) : List Byte := s.readBytes (s.effAddr 0) n

/-- `V[0]`..`V[x]`, the block a `STM` stores (R196). -/
def State.regBlock (s : State) (x : Nibble) : List Byte :=
  (List.range (x.toNat + 1)).map fun k => s.getV (BitVec.ofNat 4 k)

/-- Is key `k` down? The index is a whole byte; 16 and more never match (R230). -/
def State.keyDown (s : State) (k : Byte) : Bool := if h : k.toNat < 16 then s.keys[k.toNat] else false

/-- The lowest key that is down (R233: the scan is in ascending order). -/
def State.firstKeyDown (s : State) : Option (Fin 16) := (List.finRange 16).find? fun k => s.keys[k]

end Sys2Proof.Machine
end

