-- ==== Sys2Proof/Machine/Flags.lean ====
section
/-! DEFINITION. The flag computations (spec/42_alu.md rule R173) and the order of result and flag (rule R176). -/

namespace Sys2Proof.Machine

/-- A flag as `V[15]` holds it: 1 or 0. -/
def flagByte (f : Bool) : Byte := if f then 1 else 0

/-- Carry of `a + b` (R166): 1 iff the unclamped sum exceeds 255. -/
def carryOut (a b : Byte) : Bool := decide (255 < a.toNat + b.toNat)

/-- NOT-borrow of `a - b` (R167, R173): 1 iff the minuend is strictly greater. -/
def notBorrow (a b : Byte) : Bool := decide (b.toNat < a.toNat)

/-- The bit a right shift by one shifts out (R168). -/
def lowBitOut (a : Byte) : Bool := a.getLsbD 0

/-- The bit a left shift by one shifts out (R170). -/
def highBitOut (a : Byte) : Bool := a.getLsbD 7

/-- Write a flag to `V[15]` (R22). -/
def State.setFlag (s : State) (f : Bool) : State := s.setV 15 (flagByte f)

/-- Result to `V[x]` first, flag to `V[15]` second: with `x = 15` the flag remains (R128, R176). -/
def State.setResultFlag (s : State) (x : Nibble) (r : Byte) (f : Bool) : State := (s.setV x r).setFlag f

end Sys2Proof.Machine
end

