-- ==== Sys2Proof/Machine/Alu.lean ====
section
/-! DEFINITION. Register, arithmetic, logic, shift and random operations (spec/42_alu.md). Byte arithmetic wraps modulo 256
(R172); only `ADD`, `SUB`, `SUBN`, `SHR` and `SHL` write the flag (R173, R174). -/

namespace Sys2Proof.Machine

/-- `MOVI Vx, kk` (R160). -/
def execMovi (x : Nibble) (kk : Byte) (s : State) : Result := .next (s.setV x kk).advance

/-- `ADDI Vx, kk` (R161): the carry is lost. -/
def execAddi (x : Nibble) (kk : Byte) (s : State) : Result := .next (s.setV x (s.getV x + kk)).advance

/-- `MOV Vx, Vy` (R162). -/
def execMov (x y : Nibble) (s : State) : Result := .next (s.setV x (s.getV y)).advance

/-- `OR Vx, Vy` (R163). -/
def execOr (x y : Nibble) (s : State) : Result := .next (s.setV x (s.getV x ||| s.getV y)).advance

/-- `AND Vx, Vy` (R164). -/
def execAnd (x y : Nibble) (s : State) : Result := .next (s.setV x (s.getV x &&& s.getV y)).advance

/-- `XOR Vx, Vy` (R165). -/
def execXor (x y : Nibble) (s : State) : Result := .next (s.setV x (s.getV x ^^^ s.getV y)).advance

/-- `ADD Vx, Vy` (R166). -/
def execAdd (x y : Nibble) (s : State) : Result :=
  .next (s.setResultFlag x (s.getV x + s.getV y) (carryOut (s.getV x) (s.getV y))).advance

/-- `SUB Vx, Vy` (R167). -/
def execSub (x y : Nibble) (s : State) : Result :=
  .next (s.setResultFlag x (s.getV x - s.getV y) (notBorrow (s.getV x) (s.getV y))).advance

/-- `SUBN Vx, Vy` (R169). -/
def execSubn (x y : Nibble) (s : State) : Result :=
  .next (s.setResultFlag x (s.getV y - s.getV x) (notBorrow (s.getV y) (s.getV x))).advance

/-- `SHR Vx` (R168): in place, by one, logical; `y` is ignored (R175). -/
def execShr (x : Nibble) (s : State) : Result :=
  .next (s.setResultFlag x (s.getV x >>> 1) (lowBitOut (s.getV x))).advance

/-- `SHL Vx` (R170): in place, by one; `y` is ignored (R175). -/
def execShl (x : Nibble) (s : State) : Result :=
  .next (s.setResultFlag x (s.getV x <<< 1) (highBitOut (s.getV x))).advance

/-- `RND Vx, kk` (R171): the port's byte in this cycle, any of 0 to 255 (R271). -/
def execRnd (x : Nibble) (kk : Byte) (s : State) : Result := .next (s.setV x (s.world.randByte &&& kk)).advance

end Sys2Proof.Machine
end

