-- ==== Sys2Proof/Machine/ControlFlow.lean ====
section
/-! DEFINITION. Control transfer (spec/41_control_flow.md), and the executor of UNRECOGNIZED
(spec/40_decode_dispatch.md rule R125). -/

namespace Sys2Proof.Machine

/-- `CALL nnn` (R142). -/
def execCall (nnn : Addr) (s : State) : Result :=
  .next (if s.sp = 15 then s.raise .stackOverflow s.pc else (s.pushReturn (s.pc + 2)).setPc (zextAddr nnn))

/-- `RET` (R140). -/
def execRet (s : State) : Result :=
  .next (if s.sp = 0 then s.raise .stackUnderflow s.pc else (s.setPc s.stackTop).dropReturn)

/-- `JMP nnn` (R141). -/
def execJmp (nnn : Addr) (s : State) : Result := .next (s.setPc (zextAddr nnn))

/-- `JMPV nnn` (R148): the offset register is always `V[0]`; the 16-bit sum is not reduced. -/
def execJmpv (nnn : Addr) (s : State) : Result := .next (s.setPc (zextAddr nnn + zextByte (s.getV 0)))

/-- `SKEI Vx, kk` (R143). -/
def execSkei (x : Nibble) (kk : Byte) (s : State) : Result := .next (s.skipIf (s.getV x == kk))

/-- `SKNEI Vx, kk` (R144). -/
def execSknei (x : Nibble) (kk : Byte) (s : State) : Result := .next (s.skipIf (s.getV x != kk))

/-- `SKE Vx, Vy` (R145). -/
def execSke (x y : Nibble) (s : State) : Result := .next (s.skipIf (s.getV x == s.getV y))

/-- `SKNE Vx, Vy` (R146). -/
def execSkne (x y : Nibble) (s : State) : Result := .next (s.skipIf (s.getV x != s.getV y))

/-- UNRECOGNIZED (R125): `pc <- pc + 2` and no other state change. -/
def execUnrecognized (s : State) : Result := .next s.advance

end Sys2Proof.Machine
end

