-- ==== Sys2Proof/Machine/Display.lean ====
section
/-! DEFINITION. The Frame Compositor (spec/44_display.md): pixels, `CLEAR` and `DRAW`. -/

namespace Sys2Proof.Machine

/-- `FB(px, py)` (R30). -/
def Frame.pixel (f : Frame) (px : Fin 64) (py : Fin 32) : Bool := f[py].getLsbD px.val

/-- `FB(px, py) <- FB(px, py) ^ bit` (R214). -/
def Frame.xorPixel (f : Frame) (px : Fin 64) (py : Fin 32) (bit : Bool) : Frame :=
  if bit then f.set py.val (f[py] ^^^ BitVec.twoPow 64 px.val) else f

/-- All 2048 pixels off (R210). -/
def Frame.blank : Frame := Vector.replicate 32 0

/-- The column a sprite's column `c` lands on (R213): wrap modulo 64. -/
def wrapColumn (vx : Byte) (c : Nat) : Fin 64 := Fin.ofNat 64 (vx.toNat + c)

/-- The row a sprite's row `r` lands on (R213): wrap modulo 32. -/
def wrapRow (vy : Byte) (r : Nat) : Fin 32 := Fin.ofNat 32 (vy.toNat + r)

/-- The pixel of column `c` in a sprite's row byte: bit `7 - c`, the most significant leftmost (R212). -/
def spriteBit (b : Byte) (c : Nat) : Bool := b.getLsbD (7 - c)

/-- One pixel of a `DRAW` (R211): XOR it in, and note a collision where it turns a pixel off (R214). -/
def drawPixel (b : Byte) (vx : Byte) (py : Fin 32) (acc : Frame × Bool) (c : Nat) : Frame × Bool :=
  (acc.1.xorPixel (wrapColumn vx c) py (spriteBit b c),
   acc.2 || (spriteBit b c && acc.1.pixel (wrapColumn vx c) py))

/-- One row of a `DRAW` (R211): its 8 columns. -/
def State.drawRow (s : State) (vx vy : Byte) (acc : Frame × Bool) (r : Nat) : Frame × Bool :=
  (List.range 8).foldl (drawPixel (s.readByte (s.effAddr r)) vx (wrapRow vy r)) acc

/-- The frame buffer and the collision after the `n` rows of a sprite at `I` (R211). -/
def State.drawSprite (s : State) (vx vy : Byte) (n : Nat) : Frame × Bool :=
  (List.range n).foldl (s.drawRow vx vy) (s.fb, false)

/-- `CLEAR` (R210). -/
def execClear (s : State) : Result := .next (s.setFrame Frame.blank).advance

/-- `DRAW Vx, Vy, n` (R211): the coordinates are sampled before `V[15]` is written; `n = 0` draws no row (D17). -/
def execDraw (x y n : Nibble) (s : State) : Result :=
  s.withMemCheck n.toNat
    ((s.setFrame (s.drawSprite (s.getV x) (s.getV y) n.toNat).1).setFlag
      (s.drawSprite (s.getV x) (s.getV y) n.toNat).2).advance

end Sys2Proof.Machine
end

