-- ==== Sys2Proof/Machine/IndexMemory.lean ====
section
/-! DEFINITION. Index register and memory operations (spec/43_index_memory.md). -/

namespace Sys2Proof.Machine

/-- `SETI nnn` (R190). -/
def execSeti (nnn : Addr) (s : State) : Result := .next (s.setI (zextAddr nnn)).advance

/-- `IADD Vx` (R191): modulo 65536, no flag (D7). -/
def execIadd (x : Nibble) (s : State) : Result := .next (s.setI (s.i + zextByte (s.getV x))).advance

/-- `FONT Vx` (R192): the whole byte times 5. -/
def execFont (x : Nibble) (s : State) : Result := .next (s.setI (zextByte (s.getV x) * 5)).advance

/-- The three decimal digits of a byte, hundreds first (R193). -/
def bcdDigits (b : Byte) : List Byte :=
  [BitVec.ofNat 8 (b.toNat / 100), BitVec.ofNat 8 (b.toNat / 10 % 10), BitVec.ofNat 8 (b.toNat % 10)]

/-- `BCD Vx` (R193). -/
def execBcd (x : Nibble) (s : State) : Result :=
  s.withMemCheck 3 (s.writeBytes (s.effAddr 0) (bcdDigits (s.getV x))).advance

/-- `STM Vx` (R196): `x` is a count, not a register to read; `I` is not altered. -/
def execStm (x : Nibble) (s : State) : Result :=
  s.withMemCheck (x.toNat + 1) (s.writeBytes (s.effAddr 0) (s.regBlock x)).advance

/-- `LDM Vx` (R197): the registers above `V[x]` are unchanged; `I` is not altered. -/
def execLdm (x : Nibble) (s : State) : Result :=
  s.withMemCheck (x.toNat + 1) (s.setVs (s.bytesAtI (x.toNat + 1))).advance

end Sys2Proof.Machine
end

