-- ==== Sys2Proof/Machine/KeysTimers.lean ====
section
/-! DEFINITION. Key and timer operations (spec/45_keys_timers.md). -/

namespace Sys2Proof.Machine

/-- `SKP Vx` (R230). -/
def execSkp (x : Nibble) (s : State) : Result := .next (s.skipIf (s.keyDown (s.getV x)))

/-- `SKNP Vx` (R231). -/
def execSknp (x : Nibble) (s : State) : Result := .next (s.skipIf (!s.keyDown (s.getV x)))

/-- `WAITK Vx` (R233): with no key down nothing changes, and `pc` keeps the address of this instruction. -/
def execWaitk (x : Nibble) (s : State) : Result :=
  .next (match s.firstKeyDown with
    | some k => (s.setV x (BitVec.ofNat 8 k.val)).advance
    | none => s)

/-- `GETDT Vx` (R232). -/
def execGetdt (x : Nibble) (s : State) : Result := .next (s.setV x s.dt).advance

/-- `SETDT Vx` (R234): `last_tick` is untouched. -/
def execSetdt (x : Nibble) (s : State) : Result := .next (s.setDT (s.getV x)).advance

/-- `SETST Vx` (R235): never emits `beep` (D13). -/
def execSetst (x : Nibble) (s : State) : Result := .next (s.setST (s.getV x)).advance

end Sys2Proof.Machine
end

