-- ==== Sys2Proof/Machine/HostMoves.lean ====
section
/-! DEFINITION. The host's actions between two cycles (spec/60_exceptions.md rules R266 to R272). -/

namespace Sys2Proof.Machine

/-- The largest ROM image in bytes (R7, R67). -/
def romMax : Nat := 3584

/-- `KEYS <- keys_in` (R269). -/
def hostKeys (down : Vector Bool 16) (s : State) : State := { s with keys := down }

/-- The host takes the frame (R268): `redraw_pending <- 0`. -/
def hostPresent (s : State) : State := { s with redrawPending := false }

/-- The host ends the run (R270). -/
def hostQuit (s : State) : State := { s with world := { s.world with quit := true } }

/-- The host asserts `reset` (R290): every piece of the core's state at its reset value (R38), the halt latches and a quit
cleared, the load port open; the implementation's parameters, the time base and the world's later moves go on
(log 20). -/
def hostReset (s : State) : State :=
  { State.reset with
    lastTick := s.world.nowUs
    config := s.config
    world := { s.world with started := false, quit := false } }

/-- The ROM image through the load port (R67): byte `j` to `MEM[0x200 + j]`. -/
def hostLoad (image : List Byte) (s : State) : State := s.writeBytes 0x200 image

/-- A load move (R267): only before the first cycle, and at most `romMax` bytes (log 19). DESIGN CHOICE (log 28): the spec
speaks of one image and is silent on a second load before the first cycle; here a later load is laid over an earlier one, so
that the bytes of a longer first image stay behind a shorter second one. -/
def hostLoadChecked (image : List Byte) (s : State) : Result :=
  if s.world.started then .refused .loadAfterStart
  else if romMax < image.length then .refused .romTooLarge
  else .next (hostLoad image s)

/-- Anything but a reset: nothing is left once the run has ended (R270), and nothing changes while the core is halted (R33,
R257); otherwise what is to happen happens. -/
def whileRunning (s : State) (what : Result) : Result :=
  if s.world.quit then .fault .runEnded else if s.halted then .next s else what

end Sys2Proof.Machine
end

