-- ==== Sys2Proof/Machine/Timer.lean ====
section
/-! DEFINITION. The Timer/Clock Controller (spec/60_exceptions.md rules R260 to R263), and the sampling of a cycle's inputs. -/

namespace Sys2Proof.Machine

/-- A tick is due (R261): the time since the last tick is at least one period. -/
def State.tickDue (s : State) : Bool := decide (s.config.tickPeriodUs ≤ s.world.nowUs - s.lastTick)

/-- One timer's count down (R261): by one when a tick is due, floored at 0. -/
def countDown (t : Byte) (due : Bool) : Byte := if t = 0 then 0 else if due then t - 1 else t

/-- `TimerCheck` (R261), with `now_us` the world's present reading: at most one decrement (R262); `beep` exactly when `ST`
goes from 1 to 0 (R263); a due tick sets the stamp to the present time. -/
def timerCheck (s : State) : State :=
  { s with
    dt := countDown s.dt s.tickDue
    st := countDown s.st s.tickDue
    beep := s.st == 1 && s.tickDue
    lastTick := if s.tickDue then s.world.nowUs else s.lastTick }

/-- A cycle samples its inputs (R260, R271): the time base has moved on by `elapsedUs`, the random port holds `rand`, and the
load port is closed from now on (R267). -/
def sampleInputs (elapsedUs : Nat) (rand : Byte) (s : State) : State :=
  { s with world := { s.world with nowUs := s.world.nowUs + elapsedUs, randByte := rand, started := true } }

/-- The state the fetch of a cycle sees (R120): inputs sampled, timer check made. -/
def startCycle (elapsedUs : Nat) (rand : Byte) (s : State) : State := timerCheck (sampleInputs elapsedUs rand s)

end Sys2Proof.Machine
end

