-- ==== Sys2Proof/Machine/Cycle.lean ====
section
/-! DEFINITION. The cycle (spec/40_decode_dispatch.md rule R120), the world's moves, and placing a word for the fetch. -/

namespace Sys2Proof.Machine

/-- Decode the word and run its executor (R122, R123); a word with no instruction runs UNRECOGNIZED (R125). -/
def execWord (w : Word) (s : State) : Result :=
  match decode w with
  | some i => exec i s
  | none => execUnrecognized s

/-- Fetch check, fetch, decode, execute (R120), on the state after the timer check. -/
def fetchExecute (s : State) : Result :=
  if fetchable s.pc then execWord s.fetchWord s else .next (s.raise .pcOutOfRange s.pc)

/-- `Cycle(now_us, rand_byte)` (R120): the timer check first, then the rest. -/
def cycle (elapsedUs : Nat) (rand : Byte) (s : State) : Result := fetchExecute (startCycle elapsedUs rand s)

/-- One move of the world. A reset acts at any time (R266); a cycle and the other actions only while the core runs. -/
def performMove (m : HostMove) (s : State) : Result :=
  match m with
  | .reset => .next (hostReset s)
  | .run elapsedUs rand => whileRunning s (cycle elapsedUs rand s)
  | .keys down => whileRunning s (.next (hostKeys down s))
  | .present => whileRunning s (.next (hostPresent s))
  | .quit => whileRunning s (.next (hostQuit s))
  | .load image => whileRunning s (hostLoadChecked image s)

/-- The state with other moves of the world to come. -/
def State.withScript (s : State) (script : List HostMove) : State := { s with world := { s.world with script := script } }

/-- The state with the next free inputs used up. -/
def State.nextFree (s : State) : State := { s with world := { s.world with freeIndex := s.world.freeIndex + 1 } }

/-- One cycle on free inputs (log 4, log 5), where the world's script gives no move. -/
def freeCycle (s : State) : Result :=
  whileRunning s (cycle (Config.elapsedUs s.world.freeIndex) (Config.randByte s.world.freeIndex) s.nextFree)

/-- The world's next move, or a cycle on free inputs where its script is empty. -/
def nextMove (s : State) : Result :=
  match s.world.script with
  | m :: rest => performMove m (s.withScript rest)
  | [] => freeCycle s

/-- A move that lets a cycle run. -/
def HostMove.isRun : HostMove → Bool
  | .run _ _ => true
  | .keys _ => false
  | .present => false
  | .quit => false
  | .reset => false
  | .load _ => false

/-- The address the next fetch reads: `pc`, or the entry point where `pc` cannot be fetched from (R70). -/
def State.fetchPc (s : State) : Word := if fetchable s.pc then s.pc else 0x200

/-- Ready for a cycle to be the next step: `pc` in range, not halted, not ended, and no other move of the host before it. -/
def State.readyToFetch (s : State) : State :=
  { s with
    pc := s.fetchPc
    halted := false
    haltCause := if s.halted then 0 else s.haltCause
    haltInfo := if s.halted then 0 else s.haltInfo
    world := { s.world with quit := false, script := s.world.script.dropWhile fun m => !m.isRun } }

/-- Store a table word where the next step fetches, most-significant byte first (R66), and make the next step a cycle. -/
def State.placeWord (s : State) (nbits w : Nat) : State :=
  s.readyToFetch.writeBytes s.fetchPc.toNat (bytesOfWord (tableWord nbits w))

end Sys2Proof.Machine
end

