-- ==== Sys2Proof/Machine/Step.lean ====
section
/-! DEFINITION. The step of the machine: one move of the world, which is one cycle unless the world's script says otherwise. -/

namespace Sys2Proof.Machine

/-- One step (R120, R121): the cycle is the hardware's atomic step, and the host acts only between cycles. -/
def step (s : State) : Host.Outcome State Fault Refusal := nextMove s

/-- The state with an instruction's word stored where the next step fetches it (log 21). -/
def State.withFetchWord (s : State) (nbits w : Nat) : State := s.placeWord nbits w

end Sys2Proof.Machine
end

