-- ==== Sys2Proof/Safety.lean ====
section
/-! DEFINITION. The terms claims are made in: the machine's invariant, a running core, what an instruction leaves alone, and
the spec's own tables of halts, next program counters and written registers. -/

namespace Sys2Proof.Machine

/-- The core runs cycles (R120): it is not halted and the host has not ended the run. -/
def State.Running (s : State) : Prop := s.halted = false ∧ s.world.quit = false

/-- What every step keeps (R39, R28, R33, R260). -/
structure Inv (s : State) : Prop where
  /-- Memory is in its canonical form. -/
  memCanonical : Memory.wf s.config s.mem = true
  /-- R39 (e): while the core is not halted the other two latches are 0. -/
  latchesClear : s.halted = false → s.haltCause = 0 ∧ s.haltInfo = 0
  /-- R250: a halted core holds one of the four codes. -/
  causeListed : s.halted = true → 1 ≤ s.haltCause.toNat ∧ s.haltCause.toNat ≤ 4
  /-- Only a cycle halts. -/
  haltedStarted : s.halted = true → s.world.started = true
  /-- R28: `STACK[0]` is never written. -/
  entryZero : s.stack[0] = 0
  /-- R260: the time base is never behind the last tick. -/
  tickNotAhead : s.lastTick ≤ s.world.nowUs

/-- The world's next move is one the spec gives the host (R67, R267): a load only before the first cycle, of at most 3584
bytes. -/
def State.NextMoveLegal (s : State) : Prop :=
  ∀ image rest, s.world.script = .load image :: rest → s.world.started = false ∧ image.length ≤ 3584

/-- Every register but these is unchanged. -/
def RegsUnchangedBut (s t : State) (xs : List Nibble) : Prop := ∀ j, j ∉ xs → t.getV j = s.getV j

/-- Every byte of memory reads as before. -/
def MemoryUnchanged (s t : State) : Prop := ∀ a, t.readByte a = s.readByte a

/-- Nothing but `pc` has changed. -/
def OnlyPcChanged (s t : State) : Prop := t = { s with pc := t.pc } ∧ MemoryUnchanged s t

/-- Nothing but these registers and `pc` has changed. -/
def OnlyRegsChanged (s t : State) (xs : List Nibble) : Prop :=
  t = { s with v := t.v, pc := t.pc } ∧ RegsUnchangedBut s t xs ∧ MemoryUnchanged s t

/-- Nothing but `len` bytes of memory from `a` on, and `pc`, has changed. -/
def OnlyBytesChanged (s t : State) (a len : Nat) : Prop :=
  t = { s with mem := t.mem, pc := t.pc } ∧ ∀ b, b < a ∨ a + len ≤ b → t.readByte b = s.readByte b

/-- The words of a row of the opcode table decode to this instruction (R96). -/
def RowDecodes (pattern mask : Word) (f : Word → Instr) : Prop := ∀ w, w &&& mask = pattern → decode w = some (f w)

/-- Is key `k` down, for an index of any size (R230)? -/
def KeyIsDown (s : State) (k : Byte) : Prop := ∃ h : k.toNat < 16, s.keys[k.toNat] = true

/-- The halting condition an instruction meets in a state, as code and `halt_info` (the table of R250). -/
def haltOf (i : Instr) (s : State) : Option (BitVec 3 × Word) :=
  match i with
  | .call _ => if s.sp = 15 then some (2, s.pc) else none
  | .ret _ => if s.sp = 0 then some (3, s.pc) else none
  | .bcd _ => if 4095 < s.i.toNat + 2 then some (4, s.i) else none
  | .stm x => if 4095 < s.i.toNat + x.toNat then some (4, s.i) else none
  | .ldm x => if 4095 < s.i.toNat + x.toNat then some (4, s.i) else none
  | .draw _ _ n => if 0 < n.toNat ∧ 4095 < s.i.toNat + n.toNat - 1 then some (4, s.i) else none
  | .clear _ | .jmp _ | .skei _ _ | .sknei _ _ | .ske _ _ _ | .movi _ _ | .addi _ _ | .mov _ _ | .or _ _ | .and _ _
  | .xor _ _ | .add _ _ | .sub _ _ | .shr _ _ | .subn _ _ | .shl _ _ | .skne _ _ _ | .seti _ | .jmpv _ | .rnd _ _
  | .skp _ | .sknp _ | .getdt _ | .waitk _ | .setdt _ | .setst _ | .iadd _ | .font _ => none

/-- The condition of a skip instruction (R143 to R146, R230, R231). -/
def SkipCondition (i : Instr) (s : State) : Prop :=
  match i with
  | .skei x kk => s.getV x = kk
  | .sknei x kk => s.getV x ≠ kk
  | .ske x y _ => s.getV x = s.getV y
  | .skne x y _ => s.getV x ≠ s.getV y
  | .skp x => KeyIsDown s (s.getV x)
  | .sknp x => ¬KeyIsDown s (s.getV x)
  | .clear _ | .ret _ | .jmp _ | .call _ | .movi _ _ | .addi _ _ | .mov _ _ | .or _ _ | .and _ _ | .xor _ _ | .add _ _
  | .sub _ _ | .shr _ _ | .subn _ _ | .shl _ _ | .seti _ | .jmpv _ | .rnd _ _ | .draw _ _ _ | .getdt _ | .waitk _
  | .setdt _ | .setst _ | .iadd _ | .font _ | .bcd _ | .stm _ | .ldm _ => False

/-- The next `pc` of an instruction that does not halt, row by row of the table of R124. -/
def NextPcIs (i : Instr) (s : State) (pc : Word) : Prop :=
  match i with
  | .jmp nnn => pc.toNat = nnn.toNat
  | .call nnn => pc.toNat = nnn.toNat
  | .jmpv nnn => pc.toNat = nnn.toNat + (s.getV 0).toNat
  | .ret _ => pc = s.stack[s.sp.toNat]'(by have := s.sp.isLt; omega)
  | .skei _ _ | .sknei _ _ | .ske _ _ _ | .skne _ _ _ | .skp _ | .sknp _ =>
    (SkipCondition i s → pc = s.pc + 4) ∧ (¬SkipCondition i s → pc = s.pc + 2)
  | .waitk _ => ((∃ k : Fin 16, s.keys[k] = true) → pc = s.pc + 2) ∧ ((∀ k : Fin 16, s.keys[k] = false) → pc = s.pc)
  | .clear _ | .movi _ _ | .addi _ _ | .mov _ _ | .or _ _ | .and _ _ | .xor _ _ | .add _ _ | .sub _ _ | .shr _ _
  | .subn _ _ | .shl _ _ | .seti _ | .rnd _ _ | .draw _ _ _ | .getdt _ | .setdt _ | .setst _ | .iadd _ | .font _
  | .bcd _ | .stm _ | .ldm _ => pc = s.pc + 2

/-- The registers an instruction may write: the last column of the table of R23. -/
def MayWrite (i : Instr) (j : Nibble) : Prop :=
  match i with
  | .movi x _ | .addi x _ | .mov x _ | .or x _ | .and x _ | .xor x _ | .rnd x _ | .getdt x | .waitk x => j = x
  | .add x _ | .sub x _ | .subn x _ | .shr x _ | .shl x _ => j = x ∨ j = 15
  | .draw _ _ _ => j = 15
  | .ldm x => j.toNat ≤ x.toNat
  | .clear _ | .ret _ | .jmp _ | .call _ | .seti _ | .skei _ _ | .sknei _ _ | .ske _ _ _ | .skne _ _ _ | .jmpv _
  | .skp _ | .sknp _ | .setdt _ | .setst _ | .iadd _ | .font _ | .bcd _ | .stm _ => False

/-- The bytes an instruction may store to: the rows of R68 that write. -/
def MayStore (i : Instr) (s : State) (a : Nat) : Prop :=
  match i with
  | .bcd _ => s.effAddr 0 ≤ a ∧ a < s.effAddr 3
  | .stm x => s.effAddr 0 ≤ a ∧ a ≤ s.effAddr x.toNat
  | .clear _ | .ret _ | .jmp _ | .call _ | .skei _ _ | .sknei _ _ | .ske _ _ _ | .movi _ _ | .addi _ _ | .mov _ _
  | .or _ _ | .and _ _ | .xor _ _ | .add _ _ | .sub _ _ | .shr _ _ | .subn _ _ | .shl _ _ | .skne _ _ _ | .seti _
  | .jmpv _ | .rnd _ _ | .draw _ _ _ | .skp _ | .sknp _ | .getdt _ | .waitk _ | .setdt _ | .setst _ | .iadd _
  | .font _ | .ldm _ => False

/-- A sprite of `n` rows at `I` toggles this pixel when drawn at `(vx, vy)` (R212, R213). -/
def SpriteToggles (s : State) (vx vy : Byte) (n : Nat) (px : Fin 64) (py : Fin 32) : Prop :=
  ∃ r c, r < n ∧ c < 8 ∧ px.val = (vx.toNat + c) % 64 ∧ py.val = (vy.toNat + r) % 32 ∧
    (s.readByte (s.i.toNat + r)).getLsbD (7 - c) = true

/-- Every piece of the core's state at its reset value, `now` being the time of the reset (the table of R38). -/
structure AtReset (t : State) (now : Nat) : Prop where
  regs : ∀ x, t.getV x = 0
  index : t.i = 0
  pc : t.pc = 0x200
  timers : t.dt = 0 ∧ t.st = 0
  stack : ∀ k : Fin 16, t.stack[k] = 0
  sp : t.sp = 0
  font : ∀ (g : Fin 16) (r : Fin 5), t.readByte (5 * g.val + r.val) = t.config.fontRom[g][r]
  zero : ∀ a, 0x50 ≤ a → t.readByte a = 0
  frame : ∀ px py, t.fb.pixel px py = false
  keys : ∀ k : Fin 16, t.keys[k] = false
  redraw : t.redrawPending = false
  latches : t.halted = false ∧ t.haltCause = 0 ∧ t.haltInfo = 0
  tick : t.lastTick = now

/-- A tick falls due in the cycle that starts `elapsedUs` after the last reading of the time base (R261). -/
def TickFallsDue (elapsedUs : Nat) (s : State) : Prop :=
  s.config.tickPeriodUs ≤ s.world.nowUs + elapsedUs - s.lastTick

/-- The state after the timer checks of several cycles, each given by the time that passes before it. -/
def timerChecks (s : State) : List Nat → State
  | [] => s
  | e :: es => timerChecks (startCycle e 0 s) es

/-- How many timer checks find a tick due, counted on the readings alone (R261, R262): `last` is the time of the last tick and
`now` the last reading, each element the time that passes before the next reading. A due tick sets the stamp to the present
reading, so that periods that passed before it are not made up later. -/
def dueChecks (period last now : Nat) : List Nat → Nat
  | [] => 0
  | e :: es =>
    if period ≤ now + e - last then dueChecks period (now + e) (now + e) es + 1
    else dueChecks period last (now + e) es

end Sys2Proof.Machine
end

