-- ==== Sys2Proof/Certificates/Slice0/Obligations.lean ====
section
/-! DEFINITION. The statements made about the model, from the numbered rules of spec/. Each docstring says which rule or
section a statement formalises, and where it rests on a decision of the spec or a choice of the model. -/

open Sys2Proof Sys2Proof.Machine

/-! ### Encoding and decoding -/

/-- Decoding an encoded instruction gives it back, from its word and from its bytes, for every instruction and every value
of every field (spec/30_encoding.md sections 1, 3 and 5). -/
def Obligations.DecodeOfEncodeIsIdentity : Prop :=
  ∀ (i : Instr) (rest : List Byte),
    decode (encode i) = some i ∧ decodeBytes (encodeBytes i ++ rest) = .ok (i, rest)

/-- A recognised word is the encoding of the instruction it decodes to: no bit of it is dropped
(spec/30_encoding.md section 1; the ignored nibbles are kept by the model, log 2). -/
def Obligations.EncodeOfDecodeIsIdentity : Prop :=
  ∀ (w : Word) (i : Instr), decode w = some i → encode i = w

/-- The decoder gives a word the tag of the row it selects, and no instruction exactly when it selects none
(spec/30_encoding.md section 3, whose pairing of class F is the spec's decision D3, log 13). -/
def Obligations.OpcodeTableSelectsExactlyTheTag : Prop :=
  opcodeTable.length = 34 ∧
  (∀ (w : Word) (r : Row), r ∈ opcodeTable → (w &&& r.mask = r.pattern ↔ classify w = r.tag)) ∧
  (∀ w : Word, decode w = none ↔ ∀ r ∈ opcodeTable, w &&& r.mask ≠ r.pattern)

/-- The unrecognised words are those of the four classes the spec lists (spec/30_encoding.md section 4, derived there from
R94 and so from decision D3). -/
def Obligations.UnrecognizedWordsAreTheListedOnes : Prop :=
  ∀ w : Word, decode w = none ↔
    (fieldU w = 0x0 ∧ fieldKK w ∉ [0xE0, 0xEE]) ∨
    (fieldU w = 0x8 ∧ fieldN w ∈ [0x8, 0x9, 0xA, 0xB, 0xC, 0xD, 0xF]) ∨
    (fieldU w = 0xE ∧ fieldKK w ∉ [0x9E, 0xA1]) ∨
    (fieldU w = 0xF ∧ fieldKK w ∉ [0x07, 0x0A, 0x15, 0x18, 0x1E, 0x29, 0x33, 0x55, 0x65])

/-- R8: the six fields are these slices of the word, and they overlap as `kk = y*16 + n` and `nnn = x*256 + kk`. -/
def Obligations.FieldsAreSlicesAndOverlap : Prop :=
  ∀ w : Word,
    (fieldU w).toNat = w.toNat / 4096 ∧ (fieldX w).toNat = w.toNat / 256 % 16 ∧
    (fieldY w).toNat = w.toNat / 16 % 16 ∧ (fieldN w).toNat = w.toNat % 16 ∧
    (fieldKK w).toNat = w.toNat % 256 ∧ (fieldNNN w).toNat = w.toNat % 4096 ∧
    (fieldKK w).toNat = (fieldY w).toNat * 16 + (fieldN w).toNat ∧
    (fieldNNN w).toNat = (fieldX w).toNat * 256 + (fieldKK w).toNat ∧
    decodeWord w = { word := w, u := fieldU w, x := fieldX w, y := fieldY w, n := fieldN w, kk := fieldKK w,
                     nnn := fieldNNN w, tag := classify w }

/-- Words written out from the spec's encodings decode to the instructions they stand for (spec/30_encoding.md section 6). -/
def Obligations.SampleWordsDecode : Prop :=
  decode 0x0AE0 = some (.clear 0xA) ∧ decode 0x1234 = some (.jmp 0x234) ∧ decode 0x5AB7 = some (.ske 0xA 0xB 0x7) ∧
  decode 0x8AB4 = some (.add 0xA 0xB) ∧ decode 0xD125 = some (.draw 0x1 0x2 0x5) ∧ decode 0xE39E = some (.skp 0x3) ∧
  decode 0xF765 = some (.ldm 0x7) ∧ decode 0x8AB8 = none ∧ decode 0x0000 = none

/-- The tag does not depend on bits 11 to 8, and two words that differ only in the ignored nibble of their row do the same
in every state (spec/30_encoding.md section 1, spec/40_decode_dispatch.md section 2). -/
def Obligations.IgnoredNibblesDoNotMatter : Prop :=
  (∀ w w' : Word, w &&& 0xF0FF = w' &&& 0xF0FF → classify w = classify w') ∧
  ∀ (w w' : Word) (s : State),
    (w &&& 0xF0FF = w' &&& 0xF0FF → classify w ∈ [Tag.clear, Tag.ret] → execWord w s = execWord w' s) ∧
    (w &&& 0xFFF0 = w' &&& 0xFFF0 → classify w ∈ [Tag.ske, Tag.skne] → execWord w s = execWord w' s) ∧
    (w &&& 0xFF0F = w' &&& 0xFF0F → classify w ∈ [Tag.shr, Tag.shl] → execWord w s = execWord w' s)

/-! ### The step, the host and reset -/

/-- Where the word at `pc` decodes to an instruction, a step is that instruction's executor on the state after the inputs
were sampled and the timers checked: on the inputs of the world's next move, or on free inputs where none is announced
(spec/40_decode_dispatch.md section 1; the script and the free inputs are the model's, log 3, 4, 5). -/
def Obligations.StepRunsTheDecodedInstruction : Prop :=
  ∀ (s : State) (i : Instr), s.Running → 0x200 ≤ s.pc.toNat → s.pc.toNat ≤ 0xFFE →
    decode (wordOfBytes (s.readByte s.pc.toNat) (s.readByte (s.pc.toNat + 1))) = some i →
    (∀ e r rest, s.world.script = .run e r :: rest → step s = exec i (startCycle e r (s.withScript rest))) ∧
    (s.world.script = [] →
      step s = exec i (startCycle (Config.elapsedUs s.world.freeIndex) (Config.randByte s.world.freeIndex) s.nextFree))

/-- A step of a running core is one cycle: with the inputs the world's next move gives, or with free inputs where none is
announced (spec/40_decode_dispatch.md section 1; the script and the free inputs are the model's, log 3, 4, 5). -/
def Obligations.StepOfARunningCoreIsOneCycle : Prop :=
  ∀ s : State, s.Running →
    (∀ e r rest, s.world.script = .run e r :: rest → step s = cycle e r (s.withScript rest)) ∧
    (s.world.script = [] →
      step s = cycle (Config.elapsedUs s.world.freeIndex) (Config.randByte s.world.freeIndex) s.nextFree)

/-- R125: a word that matches no row advances `pc` by 2 and performs no other state change. -/
def Obligations.UnrecognizedOnlyAdvancesPc : Prop :=
  ∀ (w : Word) (s : State), (∀ r ∈ opcodeTable, w &&& r.mask ≠ r.pattern) →
    execWord w s = .next { s with pc := s.pc + 2 }

/-- The word fetched is the byte at `pc` as the high byte and the byte after it as the low byte, at any parity of `pc`, and
a running core's cycle executes that word (spec/20_memory.md sections 3 and 4). -/
def Obligations.FetchIsBigEndian : Prop :=
  ∀ (s : State) (e : Nat) (r : Byte), 0x200 ≤ s.pc.toNat → s.pc.toNat ≤ 0xFFE →
    s.fetchWord.toNat = (s.readByte s.pc.toNat).toNat * 256 + (s.readByte (s.pc.toNat + 1)).toNat ∧
    cycle e r s = execWord s.fetchWord (startCycle e r s)

/-- A cycle with `pc` outside 0x200 to 0xFFE raises `Halt_PcOutOfRange`: the three latches are written with code 1 and `pc`,
the timer check of the cycle stays done, nothing else changes (spec/20_memory.md section 4, spec/60_exceptions.md sections
1 and 2; the treatment of 0xFFF is decision D9 and the latches are decision D11, log 8, 9). -/
def Obligations.FetchOutOfRangeHalts : Prop :=
  ∀ (s : State) (e : Nat) (r : Byte), s.pc.toNat < 0x200 ∨ 0xFFE < s.pc.toNat →
    cycle e r s = .next { startCycle e r s with halted := true, haltCause := 1, haltInfo := s.pc }

/-- Nothing in a halted core changes until reset: a step uses up a move of the world at most; a reset clears the latches
(spec/60_exceptions.md section 2; that the host's other moves are without effect then is DEDUCED, log 17). -/
def Obligations.HaltedCoreChangesOnlyByReset : Prop :=
  ∀ s : State, s.halted = true → s.world.quit = false →
    (s.world.script = [] → step s = .next s) ∧
    (∀ m rest, s.world.script = m :: rest → m ≠ .reset → step s = .next (s.withScript rest)) ∧
    (∀ rest, s.world.script = .reset :: rest →
      ∃ t, step s = .next t ∧ t.halted = false ∧ t.haltCause = 0 ∧ t.haltInfo = 0 ∧ t.pc = 0x200)

/-- While the core runs, the host's `keys` sets `KEYS` and its `present` clears `redraw_pending`, each changing nothing else
(spec/60_exceptions.md section 5; decisions D14 and D15, log 16, 17). -/
def Obligations.HostSetsKeysAndTakesFrames : Prop :=
  ∀ (s : State) (rest : List HostMove), s.Running →
    (∀ d, s.world.script = .keys d :: rest → step s = .next { s.withScript rest with keys := d }) ∧
    (s.world.script = .present :: rest → step s = .next { s.withScript rest with redrawPending := false })

/-- `quit` changes nothing but the model's own mark, and from then on every step but a reset ends in the fault `runEnded`:
no further cycle runs (spec/60_exceptions.md section 5; the fault is the model's choice, log 18). -/
def Obligations.QuitEndsTheRun : Prop :=
  (∀ (s : State) (rest : List HostMove), s.Running → s.world.script = .quit :: rest →
    step s = .next { s with world := { s.world with script := rest, quit := true } }) ∧
  (∀ s : State, s.world.quit = true → (∀ rest, s.world.script ≠ .reset :: rest) → step s = .fault .runEnded)

/-- Byte `j` of an image of at most 3584 bytes, of odd length or empty too, goes to `MEM[0x200 + j]`, before the first
cycle; no other byte and nothing else changes, so that after a reset the bytes behind the image are 0. A longer image never
enters the machine, nor does any image once a cycle has run (spec/20_memory.md section 1, spec/60_exceptions.md section 5;
that a step with such a move answers no next state is the model's refusal, a DESIGN CHOICE, log 19; that a second load
before the first cycle is laid over the first is the model's too, log 28). -/
def Obligations.LoadPlacesTheRomImage : Prop :=
  ∀ (s : State) (image : List Byte) (rest : List HostMove), s.Running → s.world.script = .load image :: rest →
    (s.world.started = false → image.length ≤ 3584 →
      ∃ t, step s = .next t ∧
        (∀ (j : Nat) (h : j < image.length), t.readByte (0x200 + j) = image[j]) ∧
        (∀ a, a < 0x200 ∨ 0x200 + image.length ≤ a → t.readByte a = s.readByte a) ∧
        (AtReset s s.lastTick → ∀ a, 0x200 + image.length ≤ a → t.readByte a = 0) ∧
        t = { s.withScript rest with mem := t.mem }) ∧
    (s.world.started = true ∨ 3584 < image.length → ∀ t, step s ≠ .next t)

/-- A load after the first cycle and a load of more than 3584 bytes are moves the spec gives the host no access for; a step
refuses each by name (spec/20_memory.md section 1, spec/60_exceptions.md section 5; the refusals are the model's, log 19). -/
def Obligations.IllegalLoadsAreRefused : Prop :=
  ∀ (s : State) (image : List Byte) (rest : List HostMove), s.Running → s.world.script = .load image :: rest →
    (s.world.started = true → step s = .refused .loadAfterStart) ∧
    (s.world.started = false → 3584 < image.length → step s = .refused .romTooLarge)

/-- A reset at any time gives every piece of the core's state its reset value; the parameters, the time base and the moves
to come go on (spec/70_reset_and_hazards.md section 1, spec/10_state.md section 10; decisions D11, D12 and D22, log 20). -/
def Obligations.HostResetGivesResetValues : Prop :=
  ∀ (s : State) (rest : List HostMove), s.world.script = .reset :: rest →
    ∃ t, step s = .next t ∧ AtReset t s.world.nowUs ∧ t.config = s.config ∧
      t.world = { s.world with script := rest, started := false, quit := false }

/-- `State.reset` holds the reset values of spec/10_state.md section 10 (decisions D11, D12 and D16; `last_tick` is the
model's reading of the time base at reset, log 4). -/
def Obligations.ResetStateHoldsTheResetValues : Prop :=
  AtReset State.reset State.reset.world.nowUs

/-! ### Invariants and whole-machine rules -/

/-- Every step keeps the invariant: canonical memory, clear latches while running and a listed cause while halted,
`STACK[0]` never written, the time base not behind the last tick (spec/10_state.md sections 3, 7 and 8;
`STACK[0]` rests on decision D10 and the latches on D11, log 8, 10). -/
def Obligations.StepKeepsInvariant : Prop := ∀ s t : State, Inv s → step s = .next t → Inv t

/-- The reset state meets the invariant. -/
def Obligations.ResetStateHasInvariant : Prop := Inv State.reset

/-- From every state whose run has not ended and whose next move the spec gives the host, a step answers a next state: no
word, operand, address or stack depth makes the machine stop by a fault or a refusal (spec/30_encoding.md section 4,
spec/60_exceptions.md sections 1 and 2). That a halt is a next state and that a halted core's step answers next, changing
nothing, is the model's reading (DEDUCED, log 8 and 17); the two premises leave out its own stops, the fault after `quit`
and the refused loads (log 18, 19). -/
def Obligations.EveryStepAnswersNext : Prop :=
  ∀ s : State, s.world.quit = false → s.NextMoveLegal → ∃ t, step s = .next t

/-- No step changes the implementation's parameters, and the time base never runs backward
(spec/00_scope.md section 4, spec/60_exceptions.md section 4). -/
def Obligations.ParametersStayAndTimeNeverRunsBack : Prop :=
  ∀ s t : State, step s = .next t → t.config = s.config ∧ s.world.nowUs ≤ t.world.nowUs

/-- The next `pc` of every instruction is that of the contract's table, and of UNRECOGNIZED `pc + 2`; an instruction
that raises a halting condition leaves `pc` unchanged; a `CALL` that does not halt has pushed `pc + 2` (spec/40_decode_dispatch.md section 4). Where the stack
entry of `CALL` and `RET` lies and when they halt is decision D10, when a data access halts decision D8 (log 10, 11). -/
def Obligations.NextPcFollowsTheContract : Prop :=
  (∀ (i : Instr) (s t : State), exec i s = .next t →
    (haltOf i s = none → NextPcIs i s t.pc) ∧ (haltOf i s ≠ none → t.pc = s.pc)) ∧
  (∀ s t : State, execUnrecognized s = .next t → t.pc = s.pc + 2) ∧
  (∀ (nnn : Addr) (s t : State), exec (.call nnn) s = .next t → haltOf (.call nnn) s = none →
    t.stack[t.sp.toNat]'(by have := t.sp.isLt; omega) = s.pc + 2)

/-- An instruction writes no register but those the table of spec/10_state.md section 2 names for it, and none at all when
it halts (decision D6 orders result and flag, log 12). -/
def Obligations.OnlyNamedRegistersAreWritten : Prop :=
  ∀ (i : Instr) (s t : State) (j : Nibble), exec i s = .next t →
    (¬MayWrite i j ∨ haltOf i s ≠ none) → t.getV j = s.getV j

/-- Apart from the registers and `pc`, an instruction changes only what the spec names for it: the "written by" column of
spec/10_state.md section 1, and of memory only the bytes of spec/20_memory.md section 2. -/
def Obligations.EveryOtherStateIsLeftAlone : Prop :=
  ∀ (i : Instr) (s t : State), exec i s = .next t →
    (i.tag ∉ [Tag.seti, Tag.iadd, Tag.font] → t.i = s.i) ∧
    (i.tag ≠ Tag.setdt → t.dt = s.dt) ∧ (i.tag ≠ Tag.setst → t.st = s.st) ∧
    (i.tag ≠ Tag.call → t.stack = s.stack) ∧ (i.tag ∉ [Tag.call, Tag.ret] → t.sp = s.sp) ∧
    (i.tag ∉ [Tag.clear, Tag.draw] → t.fb = s.fb ∧ t.redrawPending = s.redrawPending) ∧
    (∀ a, ¬MayStore i s a → t.readByte a = s.readByte a) ∧
    (haltOf i s = none → t.halted = s.halted ∧ t.haltCause = s.haltCause ∧ t.haltInfo = s.haltInfo) ∧
    t.keys = s.keys ∧ t.lastTick = s.lastTick ∧ t.beep = s.beep ∧ t.config = s.config ∧ t.world = s.world

/-- Every instruction answers a next state in every state. Where it meets its halting condition of the table of
spec/60_exceptions.md section 1 that state differs from the old one in the three latches alone; where it meets none, the
latches keep their values (decisions D8, D10 and D11, log 8, 10, 11). -/
def Obligations.InstructionsHaltExactlyAsListed : Prop :=
  ∀ (i : Instr) (s : State),
    (∀ code info, haltOf i s = some (code, info) →
      exec i s = .next { s with halted := true, haltCause := code, haltInfo := info }) ∧
    (haltOf i s = none →
      ∃ t, exec i s = .next t ∧ t.halted = s.halted ∧ t.haltCause = s.haltCause ∧ t.haltInfo = s.haltInfo)

/-- What an instruction does to the rest of the machine does not depend on `ST`, `redraw_pending`, `last_tick`, the beep
output or the world's side (but for the random byte of `RND`): none of them can be read by a program
(spec/10_state.md sections 5, 7 and 8, spec/40_decode_dispatch.md section 3). -/
def Obligations.HiddenStateCannotBeRead : Prop :=
  ∀ (i : Instr) (s t : State) (st : Byte) (redraw beep : Bool) (tick : Nat) (w : World),
    (i.tag = Tag.rnd → w.randByte = s.world.randByte) → exec i s = .next t →
    ∃ u, exec i { s with st := st, redrawPending := redraw, beep := beep, lastTick := tick, world := w } = .next u ∧
      t = { u with st := t.st, redrawPending := t.redrawPending, beep := s.beep, lastTick := s.lastTick,
                   world := s.world }

/-! ### Loads, arithmetic, logic, shifts, random -/

/-- R160: `MOVI` sets `V[x]` to `kk`. -/
def Obligations.MoviLoadsTheImmediate : Prop :=
  RowDecodes 0x6000 0xF000 (fun w => .movi (fieldX w) (fieldKK w)) ∧
  ∀ (x : Nibble) (kk : Byte) (s : State), ∃ t, exec (.movi x kk) s = .next t ∧
    t.getV x = kk ∧ t.pc = s.pc + 2 ∧ OnlyRegsChanged s t [x]

/-- `ADDI` adds `kk` to `V[x]` modulo 256 and writes no flag (spec/42_alu.md sections 1 and 3; that `V[15]` is untouched is
decision D5, log 14). -/
def Obligations.AddiAddsWithoutFlag : Prop :=
  RowDecodes 0x7000 0xF000 (fun w => .addi (fieldX w) (fieldKK w)) ∧
  ∀ (x : Nibble) (kk : Byte) (s : State), ∃ t, exec (.addi x kk) s = .next t ∧
    (t.getV x).toNat = ((s.getV x).toNat + kk.toNat) % 256 ∧ t.pc = s.pc + 2 ∧ OnlyRegsChanged s t [x]

/-- `MOV` copies `V[y]` to `V[x]`; `OR`, `AND` and `XOR` combine the two bit by bit; none writes a flag
(spec/42_alu.md sections 2 and 4; their effects are decision D4 and the untouched flag decision D5, log 13, 14). -/
def Obligations.MovOrAndXorAreBitwise : Prop :=
  RowDecodes 0x8000 0xF00F (fun w => .mov (fieldX w) (fieldY w)) ∧
  RowDecodes 0x8001 0xF00F (fun w => .or (fieldX w) (fieldY w)) ∧
  RowDecodes 0x8002 0xF00F (fun w => .and (fieldX w) (fieldY w)) ∧
  RowDecodes 0x8003 0xF00F (fun w => .xor (fieldX w) (fieldY w)) ∧
  ∀ (x y : Nibble) (s : State),
    (∃ t, exec (.mov x y) s = .next t ∧ t.getV x = s.getV y ∧ t.pc = s.pc + 2 ∧ OnlyRegsChanged s t [x]) ∧
    (∃ t, exec (.or x y) s = .next t ∧
      (∀ k < 8, (t.getV x).getLsbD k = ((s.getV x).getLsbD k || (s.getV y).getLsbD k)) ∧
      t.pc = s.pc + 2 ∧ OnlyRegsChanged s t [x]) ∧
    (∃ t, exec (.and x y) s = .next t ∧
      (∀ k < 8, (t.getV x).getLsbD k = ((s.getV x).getLsbD k && (s.getV y).getLsbD k)) ∧
      t.pc = s.pc + 2 ∧ OnlyRegsChanged s t [x]) ∧
    (∃ t, exec (.xor x y) s = .next t ∧
      (∀ k < 8, (t.getV x).getLsbD k = ((s.getV x).getLsbD k != (s.getV y).getLsbD k)) ∧
      t.pc = s.pc + 2 ∧ OnlyRegsChanged s t [x])

/-- `ADD` writes the sum modulo 256 to `V[x]` and then the carry to `V[15]`; with `x = 15` the carry remains
(spec/42_alu.md sections 1 and 5; that the flag is written last is decision D6, log 12, and the code is decision D3,
PRESUMED, log 13). -/
def Obligations.AddWritesSumThenCarry : Prop :=
  RowDecodes 0x8004 0xF00F (fun w => .add (fieldX w) (fieldY w)) ∧
  ∀ (x y : Nibble) (s : State), ∃ t, exec (.add x y) s = .next t ∧
    (x ≠ 15 → (t.getV x).toNat = ((s.getV x).toNat + (s.getV y).toNat) % 256) ∧
    t.getV 15 = (if 255 < (s.getV x).toNat + (s.getV y).toNat then 1 else 0) ∧
    t.pc = s.pc + 2 ∧ OnlyRegsChanged s t [x, 15]

/-- `SUB` and its mirror `SUBN` write the difference modulo 256 to `V[x]` and then to `V[15]` whether the
minuend is strictly greater than the subtrahend; with `x = 15` the flag remains (spec/42_alu.md sections 1 and 5; that the
flag is written last is decision D6, log 12, and the codes are decision D3, PRESUMED, log 13). -/
def Obligations.SubAndSubnWriteDifferenceThenNotBorrow : Prop :=
  RowDecodes 0x8005 0xF00F (fun w => .sub (fieldX w) (fieldY w)) ∧
  RowDecodes 0x8007 0xF00F (fun w => .subn (fieldX w) (fieldY w)) ∧
  ∀ (x y : Nibble) (s : State),
    (∃ t, exec (.sub x y) s = .next t ∧
      (x ≠ 15 → (t.getV x).toNat = ((s.getV x).toNat + 256 - (s.getV y).toNat) % 256) ∧
      t.getV 15 = (if (s.getV y).toNat < (s.getV x).toNat then 1 else 0) ∧
      t.pc = s.pc + 2 ∧ OnlyRegsChanged s t [x, 15]) ∧
    (∃ t, exec (.subn x y) s = .next t ∧
      (x ≠ 15 → (t.getV x).toNat = ((s.getV y).toNat + 256 - (s.getV x).toNat) % 256) ∧
      t.getV 15 = (if (s.getV x).toNat < (s.getV y).toNat then 1 else 0) ∧
      t.pc = s.pc + 2 ∧ OnlyRegsChanged s t [x, 15])

/-- The shifts halve and double `V[x]` in place, write the bit shifted out to `V[15]` after the result,
and neither read nor write `V[y]` (spec/42_alu.md sections 1 and 6; that `V[15]` ends as that bit with `x = 15` too is
decision D6, log 12, and the codes are decision D3, PRESUMED, log 13). -/
def Obligations.ShiftsWriteResultThenBitShiftedOut : Prop :=
  RowDecodes 0x8006 0xF00F (fun w => .shr (fieldX w) (fieldY w)) ∧
  RowDecodes 0x800E 0xF00F (fun w => .shl (fieldX w) (fieldY w)) ∧
  ∀ (x y : Nibble) (s : State),
    (∃ t, exec (.shr x y) s = .next t ∧
      (x ≠ 15 → (t.getV x).toNat = (s.getV x).toNat / 2) ∧
      (t.getV 15).toNat = (s.getV x).toNat % 2 ∧ t.pc = s.pc + 2 ∧ OnlyRegsChanged s t [x, 15]) ∧
    (∃ t, exec (.shl x y) s = .next t ∧
      (x ≠ 15 → (t.getV x).toNat = (s.getV x).toNat * 2 % 256) ∧
      (t.getV 15).toNat = (s.getV x).toNat / 128 ∧ t.pc = s.pc + 2 ∧ OnlyRegsChanged s t [x, 15])

/-- `RND` writes the random byte of the cycle masked with `kk`; that byte is whatever the random port presents in the
cycle, any of 0 to 255 (spec/42_alu.md section 7; that the byte is a free input is decision D21, and that every cycle samples
it at its start is the model's choice, log 5). -/
def Obligations.RndMasksTheRandomByte : Prop :=
  RowDecodes 0xC000 0xF000 (fun w => .rnd (fieldX w) (fieldKK w)) ∧
  ∀ (x : Nibble) (kk : Byte) (s : State), ∃ t, exec (.rnd x kk) s = .next t ∧
    t.getV x = s.world.randByte &&& kk ∧ (∀ e r, (startCycle e r s).world.randByte = r) ∧
    t.pc = s.pc + 2 ∧ OnlyRegsChanged s t [x]

/-! ### Control flow -/

/-- R141: `JMP` sets `pc` to exactly `nnn`. -/
def Obligations.JmpSetsPc : Prop :=
  RowDecodes 0x1000 0xF000 (fun w => .jmp (fieldNNN w)) ∧
  ∀ (nnn : Addr) (s : State), ∃ t, exec (.jmp nnn) s = .next t ∧ t.pc.toNat = nnn.toNat ∧ OnlyPcChanged s t

/-- R148: `JMPV` sets `pc` to `nnn + V[0]`, not reduced modulo 4096. -/
def Obligations.JmpvAddsV0 : Prop :=
  RowDecodes 0xB000 0xF000 (fun w => .jmpv (fieldNNN w)) ∧
  ∀ (nnn : Addr) (s : State), ∃ t, exec (.jmpv nnn) s = .next t ∧
    t.pc.toNat = nnn.toNat + (s.getV 0).toNat ∧ OnlyPcChanged s t

/-- `CALL` below the top of the stack increments `SP`, writes `pc + 2` to `STACK[SP]` and jumps to `nnn`; at `SP = 15` it
raises `Halt_StackOverflow` (code 2) and changes nothing else (spec/41_control_flow.md section 2; decision D10, log 10). -/
def Obligations.CallPushesAndJumps : Prop :=
  RowDecodes 0x2000 0xF000 (fun w => .call (fieldNNN w)) ∧
  ∀ (nnn : Addr) (s : State),
    (s.sp ≠ 15 → ∃ t, exec (.call nnn) s = .next t ∧ t.pc.toNat = nnn.toNat ∧ t.sp.toNat = s.sp.toNat + 1 ∧
      (∀ k : Fin 16, t.stack[k] = if k.val = s.sp.toNat + 1 then s.pc + 2 else s.stack[k]) ∧
      t = { s with sp := t.sp, stack := t.stack, pc := t.pc } ∧ MemoryUnchanged s t) ∧
    (s.sp = 15 → exec (.call nnn) s = .next { s with halted := true, haltCause := 2, haltInfo := s.pc })

/-- `RET` on a stack that is not empty moves `STACK[SP]` to `pc` and decrements `SP`, erasing no entry; at `SP = 0` it raises
`Halt_StackUnderflow` (code 3) and changes nothing else (spec/41_control_flow.md section 2; decision D10, log 10). -/
def Obligations.RetPopsTheReturnAddress : Prop :=
  RowDecodes 0x00EE 0xF0FF (fun w => .ret (fieldX w)) ∧
  ∀ (x : Nibble) (s : State),
    (s.sp ≠ 0 → ∃ t, exec (.ret x) s = .next t ∧ t.pc = s.stack[s.sp.toNat]'(by have := s.sp.isLt; omega) ∧
      t.sp.toNat + 1 = s.sp.toNat ∧ t = { s with sp := t.sp, pc := t.pc } ∧ MemoryUnchanged s t) ∧
    (s.sp = 0 → exec (.ret x) s = .next { s with halted := true, haltCause := 3, haltInfo := s.pc })

/-- A `CALL` and then a `RET` give back `SP` and put `pc` right behind the `CALL` (spec/41_control_flow.md section 2,
spec/95_test_vectors.md S10). -/
def Obligations.CallThenRetReturnsBehindTheCall : Prop :=
  ∀ (nnn : Addr) (x : Nibble) (s : State), s.sp ≠ 15 →
    ∃ t u, exec (.call nnn) s = .next t ∧ exec (.ret x) t = .next u ∧ u.pc = s.pc + 2 ∧ u.sp = s.sp ∧
      (∀ k : Fin 16, k.val ≠ s.sp.toNat + 1 → u.stack[k] = s.stack[k]) ∧
      u = { s with stack := u.stack, pc := u.pc }

/-- R143 and R144: `SKEI` skips iff `V[x] = kk`, `SKNEI` iff `V[x] ≠ kk`; nothing but `pc` changes. -/
def Obligations.ImmediateSkipsCompareVxWithKk : Prop :=
  RowDecodes 0x3000 0xF000 (fun w => .skei (fieldX w) (fieldKK w)) ∧
  RowDecodes 0x4000 0xF000 (fun w => .sknei (fieldX w) (fieldKK w)) ∧
  ∀ (x : Nibble) (kk : Byte) (s : State),
    (∃ t, exec (.skei x kk) s = .next t ∧ t.pc = (if s.getV x = kk then s.pc + 4 else s.pc + 2) ∧ OnlyPcChanged s t) ∧
    (∃ t, exec (.sknei x kk) s = .next t ∧ t.pc = (if s.getV x ≠ kk then s.pc + 4 else s.pc + 2) ∧ OnlyPcChanged s t)

/-- R145 and R146: `SKE` skips iff `V[x] = V[y]`, `SKNE` iff `V[x] ≠ V[y]`, for every value of the ignored nibble; nothing
but `pc` changes. -/
def Obligations.RegisterSkipsCompareVxWithVy : Prop :=
  RowDecodes 0x5000 0xF000 (fun w => .ske (fieldX w) (fieldY w) (fieldN w)) ∧
  RowDecodes 0x9000 0xF000 (fun w => .skne (fieldX w) (fieldY w) (fieldN w)) ∧
  ∀ (x y n : Nibble) (s : State),
    (∃ t, exec (.ske x y n) s = .next t ∧ t.pc = (if s.getV x = s.getV y then s.pc + 4 else s.pc + 2) ∧
      OnlyPcChanged s t) ∧
    (∃ t, exec (.skne x y n) s = .next t ∧ t.pc = (if s.getV x ≠ s.getV y then s.pc + 4 else s.pc + 2) ∧
      OnlyPcChanged s t)

/-! ### Index register and memory -/

/-- R190: `SETI` sets `I` to `nnn`, zero-extended. -/
def Obligations.SetiLoadsTheIndex : Prop :=
  RowDecodes 0xA000 0xF000 (fun w => .seti (fieldNNN w)) ∧
  ∀ (nnn : Addr) (s : State), ∃ t, exec (.seti nnn) s = .next t ∧ t.i.toNat = nnn.toNat ∧ t.pc = s.pc + 2 ∧
    t = { s with i := t.i, pc := t.pc } ∧ MemoryUnchanged s t

/-- `IADD` adds `V[x]` to `I` modulo 65536 and `FONT` sets `I` to the whole of `V[x]` times 5; neither writes a register
(spec/43_index_memory.md section 2; the codes are G2 and the wrap decision D7, log 13, 14). -/
def Obligations.IaddWrapsAndFontMultiplies : Prop :=
  RowDecodes 0xF01E 0xF0FF (fun w => .iadd (fieldX w)) ∧ RowDecodes 0xF029 0xF0FF (fun w => .font (fieldX w)) ∧
  ∀ (x : Nibble) (s : State),
    (∃ t, exec (.iadd x) s = .next t ∧ t.i.toNat = (s.i.toNat + (s.getV x).toNat) % 65536 ∧ t.pc = s.pc + 2 ∧
      t = { s with i := t.i, pc := t.pc } ∧ MemoryUnchanged s t) ∧
    (∃ t, exec (.font x) s = .next t ∧ t.i.toNat = (s.getV x).toNat * 5 ∧ t.pc = s.pc + 2 ∧
      t = { s with i := t.i, pc := t.pc } ∧ MemoryUnchanged s t)

/-- `BCD` stores the hundreds, tens and ones of `V[x]` at `I`, `I + 1`, `I + 2` and changes nothing else; where the range
passes 4095 it raises `Halt_MemOutOfRange` (code 4, `halt_info = I`) and has no other effect
(spec/43_index_memory.md section 3; the code is G2 and the halt decision D8, log 11, 13). -/
def Obligations.BcdStoresThreeDigits : Prop :=
  RowDecodes 0xF033 0xF0FF (fun w => .bcd (fieldX w)) ∧
  ∀ (x : Nibble) (s : State),
    (s.i.toNat + 2 ≤ 4095 → ∃ t, exec (.bcd x) s = .next t ∧
      (t.readByte (s.effAddr 0)).toNat = (s.getV x).toNat / 100 ∧
      (t.readByte (s.effAddr 1)).toNat = (s.getV x).toNat / 10 % 10 ∧
      (t.readByte (s.effAddr 2)).toNat = (s.getV x).toNat % 10 ∧
      t.pc = s.pc + 2 ∧ OnlyBytesChanged s t (s.effAddr 0) 3) ∧
    (4095 < s.i.toNat + 2 →
      exec (.bcd x) s = .next { s with halted := true, haltCause := 4, haltInfo := s.i })

/-- `STM` stores `V[0]`..`V[x]` at `I`..`I + x` and changes nothing else, `I` included; where the range passes 4095 it raises
`Halt_MemOutOfRange` and no byte is written (spec/43_index_memory.md section 3; the code is G2 and the halt decision D8,
log 11, 13). -/
def Obligations.StmStoresTheRegisterBlock : Prop :=
  RowDecodes 0xF055 0xF0FF (fun w => .stm (fieldX w)) ∧
  ∀ (x : Nibble) (s : State),
    (s.i.toNat + x.toNat ≤ 4095 → ∃ t, exec (.stm x) s = .next t ∧
      (∀ k : Nibble, k.toNat ≤ x.toNat → t.readByte (s.effAddr k.toNat) = s.getV k) ∧
      t.pc = s.pc + 2 ∧ OnlyBytesChanged s t (s.effAddr 0) (x.toNat + 1)) ∧
    (4095 < s.i.toNat + x.toNat →
      exec (.stm x) s = .next { s with halted := true, haltCause := 4, haltInfo := s.i })

/-- `LDM` loads `V[0]`..`V[x]` from `I`..`I + x` and changes nothing else, `I` included; where the range passes 4095 it raises
`Halt_MemOutOfRange` and no register is written (spec/43_index_memory.md section 3; the code is G2 and the halt decision D8,
log 11, 13). -/
def Obligations.LdmLoadsTheRegisterBlock : Prop :=
  RowDecodes 0xF065 0xF0FF (fun w => .ldm (fieldX w)) ∧
  ∀ (x : Nibble) (s : State),
    (s.i.toNat + x.toNat ≤ 4095 → ∃ t, exec (.ldm x) s = .next t ∧
      (∀ k : Nibble, t.getV k = if k.toNat ≤ x.toNat then s.readByte (s.effAddr k.toNat) else s.getV k) ∧
      t.pc = s.pc + 2 ∧ t = { s with v := t.v, pc := t.pc } ∧ MemoryUnchanged s t) ∧
    (4095 < s.i.toNat + x.toNat →
      exec (.ldm x) s = .next { s with halted := true, haltCause := 4, haltInfo := s.i })

/-- After a `STM`, and whatever the registers hold by then, a `LDM` with the same `x` reads the same bytes back: the
registers `V[0]`..`V[x]` are what they were before the `STM` (spec/43_index_memory.md section 3). -/
def Obligations.LdmReadsBackWhatStmStored : Prop :=
  ∀ (x : Nibble) (s : State) (v : Vector Byte 16), s.i.toNat + x.toNat ≤ 4095 →
    ∃ t u, exec (.stm x) s = .next t ∧ exec (.ldm x) { t with v := v } = .next u ∧
      (∀ k : Nibble, k.toNat ≤ x.toNat → u.getV k = s.getV k) ∧ u.i = s.i ∧ u.mem = t.mem

/-- A store by `STM` or `BCD` to an address that is fetched from next is seen by that fetch, with no barrier
(spec/20_memory.md sections 3 and 5; the codes are G2, log 13). -/
def Obligations.StoresAreSeenByTheNextFetch : Prop :=
  ∀ (x k : Nibble) (s : State) (pc : Word),
    (s.i.toNat + x.toNat ≤ 4095 → k.toNat < x.toNat → pc.toNat = s.effAddr k.toNat →
      ∃ t, exec (.stm x) s = .next t ∧ (t.setPc pc).fetchWord = wordOfBytes (s.getV k) (s.getV (k + 1))) ∧
    (s.i.toNat + 2 ≤ 4095 → pc.toNat = s.effAddr 1 →
      ∃ t, exec (.bcd x) s = .next t ∧
        (t.setPc pc).fetchWord.toNat = (s.getV x).toNat / 10 % 10 * 256 + (s.getV x).toNat % 10)

/-- R65: a byte written to an address of `MEM` is what every later read of the address gives, and a write has no effect
other than on that byte. -/
def Obligations.WrittenByteIsReadBack : Prop :=
  ∀ (s : State) (a : Nat) (b : Byte), a ≤ 4095 →
    (s.writeByte a b).readByte a = b ∧ (∀ k, k ≠ a → (s.writeByte a b).readByte k = s.readByte k) ∧
      s.writeByte a b = { s with mem := (s.writeByte a b).mem }

/-- Two canonical memories that read the same at every address are the same data: the form of memory is the model's choice
(log 22), and this is what makes it harmless. -/
def Obligations.EqualContentsAreEqualMemories : Prop :=
  ∀ (c : Config.Params) (m m' : Memory), Memory.wf c m = true → Memory.wf c m' = true →
    (∀ a, Memory.read c m a = Memory.read c m' a) → m = m'

/-! ### Display -/

/-- `CLEAR` turns every pixel off and sets `redraw_pending`; `V[15]` and everything else is untouched (spec/44_display.md
sections 1 and 2; that the flag is set also where no pixel changes is decision D14 on conflict C4, log 16). -/
def Obligations.ClearTurnsEveryPixelOff : Prop :=
  RowDecodes 0x00E0 0xF0FF (fun w => .clear (fieldX w)) ∧
  ∀ (x : Nibble) (s : State), ∃ t, exec (.clear x) s = .next t ∧ (∀ px py, t.fb.pixel px py = false) ∧
    t.redrawPending = true ∧ t.pc = s.pc + 2 ∧
    t = { s with fb := t.fb, redrawPending := t.redrawPending, pc := t.pc } ∧ MemoryUnchanged s t

/-- `DRAW` XORs each pixel with the sprite's bit there, both axes wrapping; `V[15]` is 1 iff some pixel was on and is off
now, else 0; `redraw_pending` is set, also with `n = 0`. Where the sprite's range passes 4095 it raises
`Halt_MemOutOfRange` and changes nothing else (spec/44_display.md; decisions D6, D8, D14 and D17, log 11, 12, 16). -/
def Obligations.DrawXorsTheSpriteAndReportsCollision : Prop :=
  RowDecodes 0xD000 0xF000 (fun w => .draw (fieldX w) (fieldY w) (fieldN w)) ∧
  ∀ (x y n : Nibble) (s : State),
    (n = 0 ∨ s.i.toNat + n.toNat - 1 ≤ 4095 → ∃ t, exec (.draw x y n) s = .next t ∧
      (∀ px py, t.fb.pixel px py ≠ s.fb.pixel px py ↔ SpriteToggles s (s.getV x) (s.getV y) n.toNat px py) ∧
      (t.getV 15 = 1 ↔ ∃ px py, s.fb.pixel px py = true ∧ t.fb.pixel px py = false) ∧
      (t.getV 15 = 0 ∨ t.getV 15 = 1) ∧ t.redrawPending = true ∧ t.pc = s.pc + 2 ∧ RegsUnchangedBut s t [15] ∧
      t = { s with v := t.v, fb := t.fb, redrawPending := t.redrawPending, pc := t.pc } ∧ MemoryUnchanged s t) ∧
    (n ≠ 0 → 4095 < s.i.toNat + n.toNat - 1 →
      exec (.draw x y n) s = .next { s with halted := true, haltCause := 4, haltInfo := s.i })

/-- Drawing the same sprite twice at the same coordinates restores the frame buffer exactly, and the second draw reports a
collision iff the first draw set a pixel (spec/44_display.md section 1). The hypotheses say the first draw left the
coordinates as they were, which it does unless one of them is `V[15]`. -/
def Obligations.DrawingTwiceRestoresTheFrame : Prop :=
  ∀ (x y n : Nibble) (s t : State), n = 0 ∨ s.i.toNat + n.toNat - 1 ≤ 4095 → exec (.draw x y n) s = .next t →
    t.getV x = s.getV x → t.getV y = s.getV y →
    ∃ u, exec (.draw x y n) t = .next u ∧ u.fb = s.fb ∧
      (u.getV 15 = 1 ↔ ∃ px py, s.fb.pixel px py = false ∧ t.fb.pixel px py = true)

/-! ### Keys and timers -/

/-- `SKP` skips iff `V[x]` is below 16 and that key is down, `SKNP` iff not, so that in every state exactly
one of the two skips (spec/45_keys_timers.md section 1; the codes are decision D3, PRESUMED, log 13). -/
def Obligations.KeySkipsTestTheWholeByte : Prop :=
  RowDecodes 0xE09E 0xF0FF (fun w => .skp (fieldX w)) ∧ RowDecodes 0xE0A1 0xF0FF (fun w => .sknp (fieldX w)) ∧
  ∀ (x : Nibble) (s : State), ∃ t u, exec (.skp x) s = .next t ∧ exec (.sknp x) s = .next u ∧
    (KeyIsDown s (s.getV x) → t.pc = s.pc + 4 ∧ u.pc = s.pc + 2) ∧
    (¬KeyIsDown s (s.getV x) → t.pc = s.pc + 2 ∧ u.pc = s.pc + 4) ∧ OnlyPcChanged s t ∧ OnlyPcChanged s u

/-- `WAITK` with no key down changes nothing at all, `pc` included; otherwise `V[x]` gets the lowest key that is down and `pc`
advances (spec/45_keys_timers.md section 2; the code is G2, log 13). -/
def Obligations.WaitkTakesTheLowestKeyOrStays : Prop :=
  RowDecodes 0xF00A 0xF0FF (fun w => .waitk (fieldX w)) ∧
  ∀ (x : Nibble) (s : State),
    ((∀ k : Fin 16, s.keys[k] = false) → exec (.waitk x) s = .next s) ∧
    (∀ k : Fin 16, s.keys[k] = true → (∀ j : Fin 16, j < k → s.keys[j] = false) →
      ∃ t, exec (.waitk x) s = .next t ∧ (t.getV x).toNat = k.val ∧ t.pc = s.pc + 2 ∧ OnlyRegsChanged s t [x])

/-- `GETDT` copies `DT` to `V[x]`; `SETDT` and `SETST` copy `V[x]` to `DT` and `ST`, touching neither `last_tick` nor the beep
output (spec/45_keys_timers.md section 3; decisions D4 and D13, log 13, 15). -/
def Obligations.TimerAccessesCopyTheTimers : Prop :=
  RowDecodes 0xF007 0xF0FF (fun w => .getdt (fieldX w)) ∧ RowDecodes 0xF015 0xF0FF (fun w => .setdt (fieldX w)) ∧
  RowDecodes 0xF018 0xF0FF (fun w => .setst (fieldX w)) ∧
  ∀ (x : Nibble) (s : State),
    (∃ t, exec (.getdt x) s = .next t ∧ t.getV x = s.dt ∧ t.pc = s.pc + 2 ∧ OnlyRegsChanged s t [x]) ∧
    (exec (.setdt x) s = .next { s with dt := s.getV x, pc := s.pc + 2 }) ∧
    (exec (.setst x) s = .next { s with st := s.getV x, pc := s.pc + 2 })

/-- A cycle's timer check: where a tick is due both timers go down by exactly one, floored at 0, the stamp becomes the present
time, and `beep` is pulsed iff `ST` goes from 1 to 0; where none is due nothing changes and `beep` is silent
(spec/60_exceptions.md section 4; decisions D12 and D13, log 7, 15). -/
def Obligations.TimerCheckCountsDownOncePerDueTick : Prop :=
  ∀ (e : Nat) (r : Byte) (s : State), ∃ t, t = startCycle e r s ∧
    (TickFallsDue e s → t.dt.toNat = s.dt.toNat - 1 ∧ t.st.toNat = s.st.toNat - 1 ∧
      t.lastTick = s.world.nowUs + e ∧ (t.beep = true ↔ s.st = 1)) ∧
    (¬TickFallsDue e s → t.dt = s.dt ∧ t.st = s.st ∧ t.lastTick = s.lastTick ∧ t.beep = false) ∧
    t = { s with dt := t.dt, st := t.st, lastTick := t.lastTick, beep := t.beep,
                 world := { s.world with nowUs := s.world.nowUs + e, randByte := r, started := true } }

/-- In a cycle whose word is not `SETDT`, `DT` never goes up and goes down by at most 1; the same of `ST` and `SETST`
(spec/70_reset_and_hazards.md section 4, spec/60_exceptions.md section 4). -/
def Obligations.TimersOnlyCountDownByThemselves : Prop :=
  ∀ (e : Nat) (r : Byte) (s t : State), cycle e r s = .next t →
    ((∀ x, decode s.fetchWord ≠ some (.setdt x)) → t.dt.toNat ≤ s.dt.toNat ∧ s.dt.toNat ≤ t.dt.toNat + 1) ∧
    ((∀ x, decode s.fetchWord ≠ some (.setst x)) → t.st.toNat ≤ s.st.toNat ∧ s.st.toNat ≤ t.st.toNat + 1)

/-- Over any number of timer checks `DT` and `ST` go down by exactly the number of checks that find a tick due, floored at 0,
however much time passes between them. The due checks are counted on the readings, each due tick setting the stamp to the
present reading, so that periods are not made up later (spec/60_exceptions.md section 4; decision D12, log 7). -/
def Obligations.TimersRunDownByDueChecks : Prop :=
  ∀ (s : State) (es : List Nat),
    (timerChecks s es).dt.toNat = s.dt.toNat - dueChecks s.config.tickPeriodUs s.lastTick s.world.nowUs es ∧
    (timerChecks s es).st.toNat = s.st.toNat - dueChecks s.config.tickPeriodUs s.lastTick s.world.nowUs es
end

