-- ==== Sys2Proof/Laws/State.lean ====
section
/-! SUPPORT. One lemma per field per named update of the state, so that no later proof unfolds a record update. -/

namespace Sys2Proof.Machine

/-! ### `setV` -/

@[simp] theorem setV_v (s : State) (x : Nibble) (b : Byte) : (s.setV x b).v = s.v.set x.toNat b (by have := x.isLt; omega) := rfl
@[simp] theorem setV_i (s : State) (x : Nibble) (b : Byte) : (s.setV x b).i = s.i := rfl
@[simp] theorem setV_pc (s : State) (x : Nibble) (b : Byte) : (s.setV x b).pc = s.pc := rfl
@[simp] theorem setV_dt (s : State) (x : Nibble) (b : Byte) : (s.setV x b).dt = s.dt := rfl
@[simp] theorem setV_st (s : State) (x : Nibble) (b : Byte) : (s.setV x b).st = s.st := rfl
@[simp] theorem setV_stack (s : State) (x : Nibble) (b : Byte) : (s.setV x b).stack = s.stack := rfl
@[simp] theorem setV_sp (s : State) (x : Nibble) (b : Byte) : (s.setV x b).sp = s.sp := rfl
@[simp] theorem setV_mem (s : State) (x : Nibble) (b : Byte) : (s.setV x b).mem = s.mem := rfl
@[simp] theorem setV_fb (s : State) (x : Nibble) (b : Byte) : (s.setV x b).fb = s.fb := rfl
@[simp] theorem setV_keys (s : State) (x : Nibble) (b : Byte) : (s.setV x b).keys = s.keys := rfl
@[simp] theorem setV_redrawPending (s : State) (x : Nibble) (b : Byte) : (s.setV x b).redrawPending = s.redrawPending := rfl
@[simp] theorem setV_halted (s : State) (x : Nibble) (b : Byte) : (s.setV x b).halted = s.halted := rfl
@[simp] theorem setV_haltCause (s : State) (x : Nibble) (b : Byte) : (s.setV x b).haltCause = s.haltCause := rfl
@[simp] theorem setV_haltInfo (s : State) (x : Nibble) (b : Byte) : (s.setV x b).haltInfo = s.haltInfo := rfl
@[simp] theorem setV_lastTick (s : State) (x : Nibble) (b : Byte) : (s.setV x b).lastTick = s.lastTick := rfl
@[simp] theorem setV_beep (s : State) (x : Nibble) (b : Byte) : (s.setV x b).beep = s.beep := rfl
@[simp] theorem setV_config (s : State) (x : Nibble) (b : Byte) : (s.setV x b).config = s.config := rfl
@[simp] theorem setV_world (s : State) (x : Nibble) (b : Byte) : (s.setV x b).world = s.world := rfl

/-! ### `setVs` -/

@[simp] theorem setVs_v (s : State) (bs : List Byte) : (s.setVs bs).v = Vector.ofFn fun k : Fin 16 => bs.getD k.val s.v[k] := rfl
@[simp] theorem setVs_i (s : State) (bs : List Byte) : (s.setVs bs).i = s.i := rfl
@[simp] theorem setVs_pc (s : State) (bs : List Byte) : (s.setVs bs).pc = s.pc := rfl
@[simp] theorem setVs_dt (s : State) (bs : List Byte) : (s.setVs bs).dt = s.dt := rfl
@[simp] theorem setVs_st (s : State) (bs : List Byte) : (s.setVs bs).st = s.st := rfl
@[simp] theorem setVs_stack (s : State) (bs : List Byte) : (s.setVs bs).stack = s.stack := rfl
@[simp] theorem setVs_sp (s : State) (bs : List Byte) : (s.setVs bs).sp = s.sp := rfl
@[simp] theorem setVs_mem (s : State) (bs : List Byte) : (s.setVs bs).mem = s.mem := rfl
@[simp] theorem setVs_fb (s : State) (bs : List Byte) : (s.setVs bs).fb = s.fb := rfl
@[simp] theorem setVs_keys (s : State) (bs : List Byte) : (s.setVs bs).keys = s.keys := rfl
@[simp] theorem setVs_redrawPending (s : State) (bs : List Byte) : (s.setVs bs).redrawPending = s.redrawPending := rfl
@[simp] theorem setVs_halted (s : State) (bs : List Byte) : (s.setVs bs).halted = s.halted := rfl
@[simp] theorem setVs_haltCause (s : State) (bs : List Byte) : (s.setVs bs).haltCause = s.haltCause := rfl
@[simp] theorem setVs_haltInfo (s : State) (bs : List Byte) : (s.setVs bs).haltInfo = s.haltInfo := rfl
@[simp] theorem setVs_lastTick (s : State) (bs : List Byte) : (s.setVs bs).lastTick = s.lastTick := rfl
@[simp] theorem setVs_beep (s : State) (bs : List Byte) : (s.setVs bs).beep = s.beep := rfl
@[simp] theorem setVs_config (s : State) (bs : List Byte) : (s.setVs bs).config = s.config := rfl
@[simp] theorem setVs_world (s : State) (bs : List Byte) : (s.setVs bs).world = s.world := rfl

/-! ### `setI` -/

@[simp] theorem setI_v (s : State) (w : Word) : (s.setI w).v = s.v := rfl
@[simp] theorem setI_i (s : State) (w : Word) : (s.setI w).i = w := rfl
@[simp] theorem setI_pc (s : State) (w : Word) : (s.setI w).pc = s.pc := rfl
@[simp] theorem setI_dt (s : State) (w : Word) : (s.setI w).dt = s.dt := rfl
@[simp] theorem setI_st (s : State) (w : Word) : (s.setI w).st = s.st := rfl
@[simp] theorem setI_stack (s : State) (w : Word) : (s.setI w).stack = s.stack := rfl
@[simp] theorem setI_sp (s : State) (w : Word) : (s.setI w).sp = s.sp := rfl
@[simp] theorem setI_mem (s : State) (w : Word) : (s.setI w).mem = s.mem := rfl
@[simp] theorem setI_fb (s : State) (w : Word) : (s.setI w).fb = s.fb := rfl
@[simp] theorem setI_keys (s : State) (w : Word) : (s.setI w).keys = s.keys := rfl
@[simp] theorem setI_redrawPending (s : State) (w : Word) : (s.setI w).redrawPending = s.redrawPending := rfl
@[simp] theorem setI_halted (s : State) (w : Word) : (s.setI w).halted = s.halted := rfl
@[simp] theorem setI_haltCause (s : State) (w : Word) : (s.setI w).haltCause = s.haltCause := rfl
@[simp] theorem setI_haltInfo (s : State) (w : Word) : (s.setI w).haltInfo = s.haltInfo := rfl
@[simp] theorem setI_lastTick (s : State) (w : Word) : (s.setI w).lastTick = s.lastTick := rfl
@[simp] theorem setI_beep (s : State) (w : Word) : (s.setI w).beep = s.beep := rfl
@[simp] theorem setI_config (s : State) (w : Word) : (s.setI w).config = s.config := rfl
@[simp] theorem setI_world (s : State) (w : Word) : (s.setI w).world = s.world := rfl

/-! ### `setPc` -/

@[simp] theorem setPc_v (s : State) (w : Word) : (s.setPc w).v = s.v := rfl
@[simp] theorem setPc_i (s : State) (w : Word) : (s.setPc w).i = s.i := rfl
@[simp] theorem setPc_pc (s : State) (w : Word) : (s.setPc w).pc = w := rfl
@[simp] theorem setPc_dt (s : State) (w : Word) : (s.setPc w).dt = s.dt := rfl
@[simp] theorem setPc_st (s : State) (w : Word) : (s.setPc w).st = s.st := rfl
@[simp] theorem setPc_stack (s : State) (w : Word) : (s.setPc w).stack = s.stack := rfl
@[simp] theorem setPc_sp (s : State) (w : Word) : (s.setPc w).sp = s.sp := rfl
@[simp] theorem setPc_mem (s : State) (w : Word) : (s.setPc w).mem = s.mem := rfl
@[simp] theorem setPc_fb (s : State) (w : Word) : (s.setPc w).fb = s.fb := rfl
@[simp] theorem setPc_keys (s : State) (w : Word) : (s.setPc w).keys = s.keys := rfl
@[simp] theorem setPc_redrawPending (s : State) (w : Word) : (s.setPc w).redrawPending = s.redrawPending := rfl
@[simp] theorem setPc_halted (s : State) (w : Word) : (s.setPc w).halted = s.halted := rfl
@[simp] theorem setPc_haltCause (s : State) (w : Word) : (s.setPc w).haltCause = s.haltCause := rfl
@[simp] theorem setPc_haltInfo (s : State) (w : Word) : (s.setPc w).haltInfo = s.haltInfo := rfl
@[simp] theorem setPc_lastTick (s : State) (w : Word) : (s.setPc w).lastTick = s.lastTick := rfl
@[simp] theorem setPc_beep (s : State) (w : Word) : (s.setPc w).beep = s.beep := rfl
@[simp] theorem setPc_config (s : State) (w : Word) : (s.setPc w).config = s.config := rfl
@[simp] theorem setPc_world (s : State) (w : Word) : (s.setPc w).world = s.world := rfl

/-! ### `advance` -/

@[simp] theorem advance_v (s : State) : (s.advance).v = s.v := rfl
@[simp] theorem advance_i (s : State) : (s.advance).i = s.i := rfl
@[simp] theorem advance_pc (s : State) : (s.advance).pc = s.pc + 2 := rfl
@[simp] theorem advance_dt (s : State) : (s.advance).dt = s.dt := rfl
@[simp] theorem advance_st (s : State) : (s.advance).st = s.st := rfl
@[simp] theorem advance_stack (s : State) : (s.advance).stack = s.stack := rfl
@[simp] theorem advance_sp (s : State) : (s.advance).sp = s.sp := rfl
@[simp] theorem advance_mem (s : State) : (s.advance).mem = s.mem := rfl
@[simp] theorem advance_fb (s : State) : (s.advance).fb = s.fb := rfl
@[simp] theorem advance_keys (s : State) : (s.advance).keys = s.keys := rfl
@[simp] theorem advance_redrawPending (s : State) : (s.advance).redrawPending = s.redrawPending := rfl
@[simp] theorem advance_halted (s : State) : (s.advance).halted = s.halted := rfl
@[simp] theorem advance_haltCause (s : State) : (s.advance).haltCause = s.haltCause := rfl
@[simp] theorem advance_haltInfo (s : State) : (s.advance).haltInfo = s.haltInfo := rfl
@[simp] theorem advance_lastTick (s : State) : (s.advance).lastTick = s.lastTick := rfl
@[simp] theorem advance_beep (s : State) : (s.advance).beep = s.beep := rfl
@[simp] theorem advance_config (s : State) : (s.advance).config = s.config := rfl
@[simp] theorem advance_world (s : State) : (s.advance).world = s.world := rfl

/-! ### `skipIf` -/

@[simp] theorem skipIf_v (s : State) (c : Bool) : (s.skipIf c).v = s.v := rfl
@[simp] theorem skipIf_i (s : State) (c : Bool) : (s.skipIf c).i = s.i := rfl
@[simp] theorem skipIf_pc (s : State) (c : Bool) : (s.skipIf c).pc = if c then s.pc + 4 else s.pc + 2 := rfl
@[simp] theorem skipIf_dt (s : State) (c : Bool) : (s.skipIf c).dt = s.dt := rfl
@[simp] theorem skipIf_st (s : State) (c : Bool) : (s.skipIf c).st = s.st := rfl
@[simp] theorem skipIf_stack (s : State) (c : Bool) : (s.skipIf c).stack = s.stack := rfl
@[simp] theorem skipIf_sp (s : State) (c : Bool) : (s.skipIf c).sp = s.sp := rfl
@[simp] theorem skipIf_mem (s : State) (c : Bool) : (s.skipIf c).mem = s.mem := rfl
@[simp] theorem skipIf_fb (s : State) (c : Bool) : (s.skipIf c).fb = s.fb := rfl
@[simp] theorem skipIf_keys (s : State) (c : Bool) : (s.skipIf c).keys = s.keys := rfl
@[simp] theorem skipIf_redrawPending (s : State) (c : Bool) : (s.skipIf c).redrawPending = s.redrawPending := rfl
@[simp] theorem skipIf_halted (s : State) (c : Bool) : (s.skipIf c).halted = s.halted := rfl
@[simp] theorem skipIf_haltCause (s : State) (c : Bool) : (s.skipIf c).haltCause = s.haltCause := rfl
@[simp] theorem skipIf_haltInfo (s : State) (c : Bool) : (s.skipIf c).haltInfo = s.haltInfo := rfl
@[simp] theorem skipIf_lastTick (s : State) (c : Bool) : (s.skipIf c).lastTick = s.lastTick := rfl
@[simp] theorem skipIf_beep (s : State) (c : Bool) : (s.skipIf c).beep = s.beep := rfl
@[simp] theorem skipIf_config (s : State) (c : Bool) : (s.skipIf c).config = s.config := rfl
@[simp] theorem skipIf_world (s : State) (c : Bool) : (s.skipIf c).world = s.world := rfl

/-! ### `setDT` -/

@[simp] theorem setDT_v (s : State) (b : Byte) : (s.setDT b).v = s.v := rfl
@[simp] theorem setDT_i (s : State) (b : Byte) : (s.setDT b).i = s.i := rfl
@[simp] theorem setDT_pc (s : State) (b : Byte) : (s.setDT b).pc = s.pc := rfl
@[simp] theorem setDT_dt (s : State) (b : Byte) : (s.setDT b).dt = b := rfl
@[simp] theorem setDT_st (s : State) (b : Byte) : (s.setDT b).st = s.st := rfl
@[simp] theorem setDT_stack (s : State) (b : Byte) : (s.setDT b).stack = s.stack := rfl
@[simp] theorem setDT_sp (s : State) (b : Byte) : (s.setDT b).sp = s.sp := rfl
@[simp] theorem setDT_mem (s : State) (b : Byte) : (s.setDT b).mem = s.mem := rfl
@[simp] theorem setDT_fb (s : State) (b : Byte) : (s.setDT b).fb = s.fb := rfl
@[simp] theorem setDT_keys (s : State) (b : Byte) : (s.setDT b).keys = s.keys := rfl
@[simp] theorem setDT_redrawPending (s : State) (b : Byte) : (s.setDT b).redrawPending = s.redrawPending := rfl
@[simp] theorem setDT_halted (s : State) (b : Byte) : (s.setDT b).halted = s.halted := rfl
@[simp] theorem setDT_haltCause (s : State) (b : Byte) : (s.setDT b).haltCause = s.haltCause := rfl
@[simp] theorem setDT_haltInfo (s : State) (b : Byte) : (s.setDT b).haltInfo = s.haltInfo := rfl
@[simp] theorem setDT_lastTick (s : State) (b : Byte) : (s.setDT b).lastTick = s.lastTick := rfl
@[simp] theorem setDT_beep (s : State) (b : Byte) : (s.setDT b).beep = s.beep := rfl
@[simp] theorem setDT_config (s : State) (b : Byte) : (s.setDT b).config = s.config := rfl
@[simp] theorem setDT_world (s : State) (b : Byte) : (s.setDT b).world = s.world := rfl

/-! ### `setST` -/

@[simp] theorem setST_v (s : State) (b : Byte) : (s.setST b).v = s.v := rfl
@[simp] theorem setST_i (s : State) (b : Byte) : (s.setST b).i = s.i := rfl
@[simp] theorem setST_pc (s : State) (b : Byte) : (s.setST b).pc = s.pc := rfl
@[simp] theorem setST_dt (s : State) (b : Byte) : (s.setST b).dt = s.dt := rfl
@[simp] theorem setST_st (s : State) (b : Byte) : (s.setST b).st = b := rfl
@[simp] theorem setST_stack (s : State) (b : Byte) : (s.setST b).stack = s.stack := rfl
@[simp] theorem setST_sp (s : State) (b : Byte) : (s.setST b).sp = s.sp := rfl
@[simp] theorem setST_mem (s : State) (b : Byte) : (s.setST b).mem = s.mem := rfl
@[simp] theorem setST_fb (s : State) (b : Byte) : (s.setST b).fb = s.fb := rfl
@[simp] theorem setST_keys (s : State) (b : Byte) : (s.setST b).keys = s.keys := rfl
@[simp] theorem setST_redrawPending (s : State) (b : Byte) : (s.setST b).redrawPending = s.redrawPending := rfl
@[simp] theorem setST_halted (s : State) (b : Byte) : (s.setST b).halted = s.halted := rfl
@[simp] theorem setST_haltCause (s : State) (b : Byte) : (s.setST b).haltCause = s.haltCause := rfl
@[simp] theorem setST_haltInfo (s : State) (b : Byte) : (s.setST b).haltInfo = s.haltInfo := rfl
@[simp] theorem setST_lastTick (s : State) (b : Byte) : (s.setST b).lastTick = s.lastTick := rfl
@[simp] theorem setST_beep (s : State) (b : Byte) : (s.setST b).beep = s.beep := rfl
@[simp] theorem setST_config (s : State) (b : Byte) : (s.setST b).config = s.config := rfl
@[simp] theorem setST_world (s : State) (b : Byte) : (s.setST b).world = s.world := rfl

/-! ### `setFrame` -/

@[simp] theorem setFrame_v (s : State) (f : Frame) : (s.setFrame f).v = s.v := rfl
@[simp] theorem setFrame_i (s : State) (f : Frame) : (s.setFrame f).i = s.i := rfl
@[simp] theorem setFrame_pc (s : State) (f : Frame) : (s.setFrame f).pc = s.pc := rfl
@[simp] theorem setFrame_dt (s : State) (f : Frame) : (s.setFrame f).dt = s.dt := rfl
@[simp] theorem setFrame_st (s : State) (f : Frame) : (s.setFrame f).st = s.st := rfl
@[simp] theorem setFrame_stack (s : State) (f : Frame) : (s.setFrame f).stack = s.stack := rfl
@[simp] theorem setFrame_sp (s : State) (f : Frame) : (s.setFrame f).sp = s.sp := rfl
@[simp] theorem setFrame_mem (s : State) (f : Frame) : (s.setFrame f).mem = s.mem := rfl
@[simp] theorem setFrame_fb (s : State) (f : Frame) : (s.setFrame f).fb = f := rfl
@[simp] theorem setFrame_keys (s : State) (f : Frame) : (s.setFrame f).keys = s.keys := rfl
@[simp] theorem setFrame_redrawPending (s : State) (f : Frame) : (s.setFrame f).redrawPending = true := rfl
@[simp] theorem setFrame_halted (s : State) (f : Frame) : (s.setFrame f).halted = s.halted := rfl
@[simp] theorem setFrame_haltCause (s : State) (f : Frame) : (s.setFrame f).haltCause = s.haltCause := rfl
@[simp] theorem setFrame_haltInfo (s : State) (f : Frame) : (s.setFrame f).haltInfo = s.haltInfo := rfl
@[simp] theorem setFrame_lastTick (s : State) (f : Frame) : (s.setFrame f).lastTick = s.lastTick := rfl
@[simp] theorem setFrame_beep (s : State) (f : Frame) : (s.setFrame f).beep = s.beep := rfl
@[simp] theorem setFrame_config (s : State) (f : Frame) : (s.setFrame f).config = s.config := rfl
@[simp] theorem setFrame_world (s : State) (f : Frame) : (s.setFrame f).world = s.world := rfl

/-! ### `pushReturn` -/

@[simp] theorem pushReturn_v (s : State) (w : Word) : (s.pushReturn w).v = s.v := rfl
@[simp] theorem pushReturn_i (s : State) (w : Word) : (s.pushReturn w).i = s.i := rfl
@[simp] theorem pushReturn_pc (s : State) (w : Word) : (s.pushReturn w).pc = s.pc := rfl
@[simp] theorem pushReturn_dt (s : State) (w : Word) : (s.pushReturn w).dt = s.dt := rfl
@[simp] theorem pushReturn_st (s : State) (w : Word) : (s.pushReturn w).st = s.st := rfl
@[simp] theorem pushReturn_stack (s : State) (w : Word) : (s.pushReturn w).stack = s.stack.set (s.sp + 1).toNat w (by have := (s.sp + 1).isLt; omega) := rfl
@[simp] theorem pushReturn_sp (s : State) (w : Word) : (s.pushReturn w).sp = s.sp + 1 := rfl
@[simp] theorem pushReturn_mem (s : State) (w : Word) : (s.pushReturn w).mem = s.mem := rfl
@[simp] theorem pushReturn_fb (s : State) (w : Word) : (s.pushReturn w).fb = s.fb := rfl
@[simp] theorem pushReturn_keys (s : State) (w : Word) : (s.pushReturn w).keys = s.keys := rfl
@[simp] theorem pushReturn_redrawPending (s : State) (w : Word) : (s.pushReturn w).redrawPending = s.redrawPending := rfl
@[simp] theorem pushReturn_halted (s : State) (w : Word) : (s.pushReturn w).halted = s.halted := rfl
@[simp] theorem pushReturn_haltCause (s : State) (w : Word) : (s.pushReturn w).haltCause = s.haltCause := rfl
@[simp] theorem pushReturn_haltInfo (s : State) (w : Word) : (s.pushReturn w).haltInfo = s.haltInfo := rfl
@[simp] theorem pushReturn_lastTick (s : State) (w : Word) : (s.pushReturn w).lastTick = s.lastTick := rfl
@[simp] theorem pushReturn_beep (s : State) (w : Word) : (s.pushReturn w).beep = s.beep := rfl
@[simp] theorem pushReturn_config (s : State) (w : Word) : (s.pushReturn w).config = s.config := rfl
@[simp] theorem pushReturn_world (s : State) (w : Word) : (s.pushReturn w).world = s.world := rfl

/-! ### `dropReturn` -/

@[simp] theorem dropReturn_v (s : State) : (s.dropReturn).v = s.v := rfl
@[simp] theorem dropReturn_i (s : State) : (s.dropReturn).i = s.i := rfl
@[simp] theorem dropReturn_pc (s : State) : (s.dropReturn).pc = s.pc := rfl
@[simp] theorem dropReturn_dt (s : State) : (s.dropReturn).dt = s.dt := rfl
@[simp] theorem dropReturn_st (s : State) : (s.dropReturn).st = s.st := rfl
@[simp] theorem dropReturn_stack (s : State) : (s.dropReturn).stack = s.stack := rfl
@[simp] theorem dropReturn_sp (s : State) : (s.dropReturn).sp = s.sp - 1 := rfl
@[simp] theorem dropReturn_mem (s : State) : (s.dropReturn).mem = s.mem := rfl
@[simp] theorem dropReturn_fb (s : State) : (s.dropReturn).fb = s.fb := rfl
@[simp] theorem dropReturn_keys (s : State) : (s.dropReturn).keys = s.keys := rfl
@[simp] theorem dropReturn_redrawPending (s : State) : (s.dropReturn).redrawPending = s.redrawPending := rfl
@[simp] theorem dropReturn_halted (s : State) : (s.dropReturn).halted = s.halted := rfl
@[simp] theorem dropReturn_haltCause (s : State) : (s.dropReturn).haltCause = s.haltCause := rfl
@[simp] theorem dropReturn_haltInfo (s : State) : (s.dropReturn).haltInfo = s.haltInfo := rfl
@[simp] theorem dropReturn_lastTick (s : State) : (s.dropReturn).lastTick = s.lastTick := rfl
@[simp] theorem dropReturn_beep (s : State) : (s.dropReturn).beep = s.beep := rfl
@[simp] theorem dropReturn_config (s : State) : (s.dropReturn).config = s.config := rfl
@[simp] theorem dropReturn_world (s : State) : (s.dropReturn).world = s.world := rfl

/-! ### `writeByte` -/

@[simp] theorem writeByte_v (s : State) (a : Nat) (b : Byte) : (s.writeByte a b).v = s.v := rfl
@[simp] theorem writeByte_i (s : State) (a : Nat) (b : Byte) : (s.writeByte a b).i = s.i := rfl
@[simp] theorem writeByte_pc (s : State) (a : Nat) (b : Byte) : (s.writeByte a b).pc = s.pc := rfl
@[simp] theorem writeByte_dt (s : State) (a : Nat) (b : Byte) : (s.writeByte a b).dt = s.dt := rfl
@[simp] theorem writeByte_st (s : State) (a : Nat) (b : Byte) : (s.writeByte a b).st = s.st := rfl
@[simp] theorem writeByte_stack (s : State) (a : Nat) (b : Byte) : (s.writeByte a b).stack = s.stack := rfl
@[simp] theorem writeByte_sp (s : State) (a : Nat) (b : Byte) : (s.writeByte a b).sp = s.sp := rfl
@[simp] theorem writeByte_mem (s : State) (a : Nat) (b : Byte) : (s.writeByte a b).mem = Memory.write s.config s.mem a b := rfl
@[simp] theorem writeByte_fb (s : State) (a : Nat) (b : Byte) : (s.writeByte a b).fb = s.fb := rfl
@[simp] theorem writeByte_keys (s : State) (a : Nat) (b : Byte) : (s.writeByte a b).keys = s.keys := rfl
@[simp] theorem writeByte_redrawPending (s : State) (a : Nat) (b : Byte) : (s.writeByte a b).redrawPending = s.redrawPending := rfl
@[simp] theorem writeByte_halted (s : State) (a : Nat) (b : Byte) : (s.writeByte a b).halted = s.halted := rfl
@[simp] theorem writeByte_haltCause (s : State) (a : Nat) (b : Byte) : (s.writeByte a b).haltCause = s.haltCause := rfl
@[simp] theorem writeByte_haltInfo (s : State) (a : Nat) (b : Byte) : (s.writeByte a b).haltInfo = s.haltInfo := rfl
@[simp] theorem writeByte_lastTick (s : State) (a : Nat) (b : Byte) : (s.writeByte a b).lastTick = s.lastTick := rfl
@[simp] theorem writeByte_beep (s : State) (a : Nat) (b : Byte) : (s.writeByte a b).beep = s.beep := rfl
@[simp] theorem writeByte_config (s : State) (a : Nat) (b : Byte) : (s.writeByte a b).config = s.config := rfl
@[simp] theorem writeByte_world (s : State) (a : Nat) (b : Byte) : (s.writeByte a b).world = s.world := rfl

/-! ### `raise` -/

@[simp] theorem raise_v (s : State) (h : Halt) (w : Word) : (s.raise h w).v = s.v := rfl
@[simp] theorem raise_i (s : State) (h : Halt) (w : Word) : (s.raise h w).i = s.i := rfl
@[simp] theorem raise_pc (s : State) (h : Halt) (w : Word) : (s.raise h w).pc = s.pc := rfl
@[simp] theorem raise_dt (s : State) (h : Halt) (w : Word) : (s.raise h w).dt = s.dt := rfl
@[simp] theorem raise_st (s : State) (h : Halt) (w : Word) : (s.raise h w).st = s.st := rfl
@[simp] theorem raise_stack (s : State) (h : Halt) (w : Word) : (s.raise h w).stack = s.stack := rfl
@[simp] theorem raise_sp (s : State) (h : Halt) (w : Word) : (s.raise h w).sp = s.sp := rfl
@[simp] theorem raise_mem (s : State) (h : Halt) (w : Word) : (s.raise h w).mem = s.mem := rfl
@[simp] theorem raise_fb (s : State) (h : Halt) (w : Word) : (s.raise h w).fb = s.fb := rfl
@[simp] theorem raise_keys (s : State) (h : Halt) (w : Word) : (s.raise h w).keys = s.keys := rfl
@[simp] theorem raise_redrawPending (s : State) (h : Halt) (w : Word) : (s.raise h w).redrawPending = s.redrawPending := rfl
@[simp] theorem raise_halted (s : State) (h : Halt) (w : Word) : (s.raise h w).halted = true := rfl
@[simp] theorem raise_haltCause (s : State) (h : Halt) (w : Word) : (s.raise h w).haltCause = h.code := rfl
@[simp] theorem raise_haltInfo (s : State) (h : Halt) (w : Word) : (s.raise h w).haltInfo = w := rfl
@[simp] theorem raise_lastTick (s : State) (h : Halt) (w : Word) : (s.raise h w).lastTick = s.lastTick := rfl
@[simp] theorem raise_beep (s : State) (h : Halt) (w : Word) : (s.raise h w).beep = s.beep := rfl
@[simp] theorem raise_config (s : State) (h : Halt) (w : Word) : (s.raise h w).config = s.config := rfl
@[simp] theorem raise_world (s : State) (h : Halt) (w : Word) : (s.raise h w).world = s.world := rfl

/-! ### `timerCheck` -/

@[simp] theorem timerCheck_v (s : State) : (timerCheck s).v = s.v := rfl
@[simp] theorem timerCheck_i (s : State) : (timerCheck s).i = s.i := rfl
@[simp] theorem timerCheck_pc (s : State) : (timerCheck s).pc = s.pc := rfl
@[simp] theorem timerCheck_dt (s : State) : (timerCheck s).dt = countDown s.dt s.tickDue := rfl
@[simp] theorem timerCheck_st (s : State) : (timerCheck s).st = countDown s.st s.tickDue := rfl
@[simp] theorem timerCheck_stack (s : State) : (timerCheck s).stack = s.stack := rfl
@[simp] theorem timerCheck_sp (s : State) : (timerCheck s).sp = s.sp := rfl
@[simp] theorem timerCheck_mem (s : State) : (timerCheck s).mem = s.mem := rfl
@[simp] theorem timerCheck_fb (s : State) : (timerCheck s).fb = s.fb := rfl
@[simp] theorem timerCheck_keys (s : State) : (timerCheck s).keys = s.keys := rfl
@[simp] theorem timerCheck_redrawPending (s : State) : (timerCheck s).redrawPending = s.redrawPending := rfl
@[simp] theorem timerCheck_halted (s : State) : (timerCheck s).halted = s.halted := rfl
@[simp] theorem timerCheck_haltCause (s : State) : (timerCheck s).haltCause = s.haltCause := rfl
@[simp] theorem timerCheck_haltInfo (s : State) : (timerCheck s).haltInfo = s.haltInfo := rfl
@[simp] theorem timerCheck_lastTick (s : State) : (timerCheck s).lastTick = if s.tickDue then s.world.nowUs else s.lastTick := rfl
@[simp] theorem timerCheck_beep (s : State) : (timerCheck s).beep = (s.st == 1 && s.tickDue) := rfl
@[simp] theorem timerCheck_config (s : State) : (timerCheck s).config = s.config := rfl
@[simp] theorem timerCheck_world (s : State) : (timerCheck s).world = s.world := rfl

/-! ### `sampleInputs` -/

@[simp] theorem sampleInputs_v (s : State) (e : Nat) (r : Byte) : (sampleInputs e r s).v = s.v := rfl
@[simp] theorem sampleInputs_i (s : State) (e : Nat) (r : Byte) : (sampleInputs e r s).i = s.i := rfl
@[simp] theorem sampleInputs_pc (s : State) (e : Nat) (r : Byte) : (sampleInputs e r s).pc = s.pc := rfl
@[simp] theorem sampleInputs_dt (s : State) (e : Nat) (r : Byte) : (sampleInputs e r s).dt = s.dt := rfl
@[simp] theorem sampleInputs_st (s : State) (e : Nat) (r : Byte) : (sampleInputs e r s).st = s.st := rfl
@[simp] theorem sampleInputs_stack (s : State) (e : Nat) (r : Byte) : (sampleInputs e r s).stack = s.stack := rfl
@[simp] theorem sampleInputs_sp (s : State) (e : Nat) (r : Byte) : (sampleInputs e r s).sp = s.sp := rfl
@[simp] theorem sampleInputs_mem (s : State) (e : Nat) (r : Byte) : (sampleInputs e r s).mem = s.mem := rfl
@[simp] theorem sampleInputs_fb (s : State) (e : Nat) (r : Byte) : (sampleInputs e r s).fb = s.fb := rfl
@[simp] theorem sampleInputs_keys (s : State) (e : Nat) (r : Byte) : (sampleInputs e r s).keys = s.keys := rfl
@[simp] theorem sampleInputs_redrawPending (s : State) (e : Nat) (r : Byte) : (sampleInputs e r s).redrawPending = s.redrawPending := rfl
@[simp] theorem sampleInputs_halted (s : State) (e : Nat) (r : Byte) : (sampleInputs e r s).halted = s.halted := rfl
@[simp] theorem sampleInputs_haltCause (s : State) (e : Nat) (r : Byte) : (sampleInputs e r s).haltCause = s.haltCause := rfl
@[simp] theorem sampleInputs_haltInfo (s : State) (e : Nat) (r : Byte) : (sampleInputs e r s).haltInfo = s.haltInfo := rfl
@[simp] theorem sampleInputs_lastTick (s : State) (e : Nat) (r : Byte) : (sampleInputs e r s).lastTick = s.lastTick := rfl
@[simp] theorem sampleInputs_beep (s : State) (e : Nat) (r : Byte) : (sampleInputs e r s).beep = s.beep := rfl
@[simp] theorem sampleInputs_config (s : State) (e : Nat) (r : Byte) : (sampleInputs e r s).config = s.config := rfl
@[simp] theorem sampleInputs_world (s : State) (e : Nat) (r : Byte) : (sampleInputs e r s).world = { s.world with nowUs := s.world.nowUs + e, randByte := r, started := true } := rfl

/-! ### `hostKeys` -/

@[simp] theorem hostKeys_v (s : State) (d : Vector Bool 16) : (hostKeys d s).v = s.v := rfl
@[simp] theorem hostKeys_i (s : State) (d : Vector Bool 16) : (hostKeys d s).i = s.i := rfl
@[simp] theorem hostKeys_pc (s : State) (d : Vector Bool 16) : (hostKeys d s).pc = s.pc := rfl
@[simp] theorem hostKeys_dt (s : State) (d : Vector Bool 16) : (hostKeys d s).dt = s.dt := rfl
@[simp] theorem hostKeys_st (s : State) (d : Vector Bool 16) : (hostKeys d s).st = s.st := rfl
@[simp] theorem hostKeys_stack (s : State) (d : Vector Bool 16) : (hostKeys d s).stack = s.stack := rfl
@[simp] theorem hostKeys_sp (s : State) (d : Vector Bool 16) : (hostKeys d s).sp = s.sp := rfl
@[simp] theorem hostKeys_mem (s : State) (d : Vector Bool 16) : (hostKeys d s).mem = s.mem := rfl
@[simp] theorem hostKeys_fb (s : State) (d : Vector Bool 16) : (hostKeys d s).fb = s.fb := rfl
@[simp] theorem hostKeys_keys (s : State) (d : Vector Bool 16) : (hostKeys d s).keys = d := rfl
@[simp] theorem hostKeys_redrawPending (s : State) (d : Vector Bool 16) : (hostKeys d s).redrawPending = s.redrawPending := rfl
@[simp] theorem hostKeys_halted (s : State) (d : Vector Bool 16) : (hostKeys d s).halted = s.halted := rfl
@[simp] theorem hostKeys_haltCause (s : State) (d : Vector Bool 16) : (hostKeys d s).haltCause = s.haltCause := rfl
@[simp] theorem hostKeys_haltInfo (s : State) (d : Vector Bool 16) : (hostKeys d s).haltInfo = s.haltInfo := rfl
@[simp] theorem hostKeys_lastTick (s : State) (d : Vector Bool 16) : (hostKeys d s).lastTick = s.lastTick := rfl
@[simp] theorem hostKeys_beep (s : State) (d : Vector Bool 16) : (hostKeys d s).beep = s.beep := rfl
@[simp] theorem hostKeys_config (s : State) (d : Vector Bool 16) : (hostKeys d s).config = s.config := rfl
@[simp] theorem hostKeys_world (s : State) (d : Vector Bool 16) : (hostKeys d s).world = s.world := rfl

/-! ### `hostPresent` -/

@[simp] theorem hostPresent_v (s : State) : (hostPresent s).v = s.v := rfl
@[simp] theorem hostPresent_i (s : State) : (hostPresent s).i = s.i := rfl
@[simp] theorem hostPresent_pc (s : State) : (hostPresent s).pc = s.pc := rfl
@[simp] theorem hostPresent_dt (s : State) : (hostPresent s).dt = s.dt := rfl
@[simp] theorem hostPresent_st (s : State) : (hostPresent s).st = s.st := rfl
@[simp] theorem hostPresent_stack (s : State) : (hostPresent s).stack = s.stack := rfl
@[simp] theorem hostPresent_sp (s : State) : (hostPresent s).sp = s.sp := rfl
@[simp] theorem hostPresent_mem (s : State) : (hostPresent s).mem = s.mem := rfl
@[simp] theorem hostPresent_fb (s : State) : (hostPresent s).fb = s.fb := rfl
@[simp] theorem hostPresent_keys (s : State) : (hostPresent s).keys = s.keys := rfl
@[simp] theorem hostPresent_redrawPending (s : State) : (hostPresent s).redrawPending = false := rfl
@[simp] theorem hostPresent_halted (s : State) : (hostPresent s).halted = s.halted := rfl
@[simp] theorem hostPresent_haltCause (s : State) : (hostPresent s).haltCause = s.haltCause := rfl
@[simp] theorem hostPresent_haltInfo (s : State) : (hostPresent s).haltInfo = s.haltInfo := rfl
@[simp] theorem hostPresent_lastTick (s : State) : (hostPresent s).lastTick = s.lastTick := rfl
@[simp] theorem hostPresent_beep (s : State) : (hostPresent s).beep = s.beep := rfl
@[simp] theorem hostPresent_config (s : State) : (hostPresent s).config = s.config := rfl
@[simp] theorem hostPresent_world (s : State) : (hostPresent s).world = s.world := rfl

/-! ### `hostQuit` -/

@[simp] theorem hostQuit_v (s : State) : (hostQuit s).v = s.v := rfl
@[simp] theorem hostQuit_i (s : State) : (hostQuit s).i = s.i := rfl
@[simp] theorem hostQuit_pc (s : State) : (hostQuit s).pc = s.pc := rfl
@[simp] theorem hostQuit_dt (s : State) : (hostQuit s).dt = s.dt := rfl
@[simp] theorem hostQuit_st (s : State) : (hostQuit s).st = s.st := rfl
@[simp] theorem hostQuit_stack (s : State) : (hostQuit s).stack = s.stack := rfl
@[simp] theorem hostQuit_sp (s : State) : (hostQuit s).sp = s.sp := rfl
@[simp] theorem hostQuit_mem (s : State) : (hostQuit s).mem = s.mem := rfl
@[simp] theorem hostQuit_fb (s : State) : (hostQuit s).fb = s.fb := rfl
@[simp] theorem hostQuit_keys (s : State) : (hostQuit s).keys = s.keys := rfl
@[simp] theorem hostQuit_redrawPending (s : State) : (hostQuit s).redrawPending = s.redrawPending := rfl
@[simp] theorem hostQuit_halted (s : State) : (hostQuit s).halted = s.halted := rfl
@[simp] theorem hostQuit_haltCause (s : State) : (hostQuit s).haltCause = s.haltCause := rfl
@[simp] theorem hostQuit_haltInfo (s : State) : (hostQuit s).haltInfo = s.haltInfo := rfl
@[simp] theorem hostQuit_lastTick (s : State) : (hostQuit s).lastTick = s.lastTick := rfl
@[simp] theorem hostQuit_beep (s : State) : (hostQuit s).beep = s.beep := rfl
@[simp] theorem hostQuit_config (s : State) : (hostQuit s).config = s.config := rfl
@[simp] theorem hostQuit_world (s : State) : (hostQuit s).world = { s.world with quit := true } := rfl

/-! ### `withScript` -/

@[simp] theorem withScript_v (s : State) (l : List HostMove) : (s.withScript l).v = s.v := rfl
@[simp] theorem withScript_i (s : State) (l : List HostMove) : (s.withScript l).i = s.i := rfl
@[simp] theorem withScript_pc (s : State) (l : List HostMove) : (s.withScript l).pc = s.pc := rfl
@[simp] theorem withScript_dt (s : State) (l : List HostMove) : (s.withScript l).dt = s.dt := rfl
@[simp] theorem withScript_st (s : State) (l : List HostMove) : (s.withScript l).st = s.st := rfl
@[simp] theorem withScript_stack (s : State) (l : List HostMove) : (s.withScript l).stack = s.stack := rfl
@[simp] theorem withScript_sp (s : State) (l : List HostMove) : (s.withScript l).sp = s.sp := rfl
@[simp] theorem withScript_mem (s : State) (l : List HostMove) : (s.withScript l).mem = s.mem := rfl
@[simp] theorem withScript_fb (s : State) (l : List HostMove) : (s.withScript l).fb = s.fb := rfl
@[simp] theorem withScript_keys (s : State) (l : List HostMove) : (s.withScript l).keys = s.keys := rfl
@[simp] theorem withScript_redrawPending (s : State) (l : List HostMove) : (s.withScript l).redrawPending = s.redrawPending := rfl
@[simp] theorem withScript_halted (s : State) (l : List HostMove) : (s.withScript l).halted = s.halted := rfl
@[simp] theorem withScript_haltCause (s : State) (l : List HostMove) : (s.withScript l).haltCause = s.haltCause := rfl
@[simp] theorem withScript_haltInfo (s : State) (l : List HostMove) : (s.withScript l).haltInfo = s.haltInfo := rfl
@[simp] theorem withScript_lastTick (s : State) (l : List HostMove) : (s.withScript l).lastTick = s.lastTick := rfl
@[simp] theorem withScript_beep (s : State) (l : List HostMove) : (s.withScript l).beep = s.beep := rfl
@[simp] theorem withScript_config (s : State) (l : List HostMove) : (s.withScript l).config = s.config := rfl
@[simp] theorem withScript_world (s : State) (l : List HostMove) : (s.withScript l).world = { s.world with script := l } := rfl

/-! ### `nextFree` -/

@[simp] theorem nextFree_v (s : State) : (s.nextFree).v = s.v := rfl
@[simp] theorem nextFree_i (s : State) : (s.nextFree).i = s.i := rfl
@[simp] theorem nextFree_pc (s : State) : (s.nextFree).pc = s.pc := rfl
@[simp] theorem nextFree_dt (s : State) : (s.nextFree).dt = s.dt := rfl
@[simp] theorem nextFree_st (s : State) : (s.nextFree).st = s.st := rfl
@[simp] theorem nextFree_stack (s : State) : (s.nextFree).stack = s.stack := rfl
@[simp] theorem nextFree_sp (s : State) : (s.nextFree).sp = s.sp := rfl
@[simp] theorem nextFree_mem (s : State) : (s.nextFree).mem = s.mem := rfl
@[simp] theorem nextFree_fb (s : State) : (s.nextFree).fb = s.fb := rfl
@[simp] theorem nextFree_keys (s : State) : (s.nextFree).keys = s.keys := rfl
@[simp] theorem nextFree_redrawPending (s : State) : (s.nextFree).redrawPending = s.redrawPending := rfl
@[simp] theorem nextFree_halted (s : State) : (s.nextFree).halted = s.halted := rfl
@[simp] theorem nextFree_haltCause (s : State) : (s.nextFree).haltCause = s.haltCause := rfl
@[simp] theorem nextFree_haltInfo (s : State) : (s.nextFree).haltInfo = s.haltInfo := rfl
@[simp] theorem nextFree_lastTick (s : State) : (s.nextFree).lastTick = s.lastTick := rfl
@[simp] theorem nextFree_beep (s : State) : (s.nextFree).beep = s.beep := rfl
@[simp] theorem nextFree_config (s : State) : (s.nextFree).config = s.config := rfl
@[simp] theorem nextFree_world (s : State) : (s.nextFree).world = { s.world with freeIndex := s.world.freeIndex + 1 } := rfl

/-! ### Composite updates -/

@[simp] theorem setFlag_eq (s : State) (f : Bool) : s.setFlag f = s.setV 15 (flagByte f) := rfl

@[simp] theorem setResultFlag_eq (s : State) (x : Nibble) (r : Byte) (f : Bool) :
    s.setResultFlag x r f = (s.setV x r).setV 15 (flagByte f) := rfl

@[simp] theorem startCycle_eq (e : Nat) (r : Byte) (s : State) :
    startCycle e r s = timerCheck (sampleInputs e r s) := rfl

end Sys2Proof.Machine
end

