-- ==== Sys2Proof/Laws/Memory.lean ====
section
/-! SUPPORT. Read after write, and the canonical form of memory (spec/20_memory.md rules R64, R65). -/

namespace Sys2Proof.Machine

/-! ### The list of listed bytes -/

theorem lookup_remove (m : Memory) (a k : Nat) :
    Memory.lookup (Memory.remove m a) k = if k = a then none else Memory.lookup m k := by
  induction m with
  | nil => simp [Memory.remove, Memory.lookup]
  | cons c m ih =>
    obtain ⟨j, b⟩ := c
    by_cases h : a = j
    · subst h
      simp only [Memory.remove, if_true, ih, Memory.lookup]
      split <;> rfl
    · simp only [Memory.remove, if_neg h, Memory.lookup, ih]
      by_cases hk : k = j
      · simp [hk, Ne.symm h]
      · simp [hk]

theorem lookup_insert (m : Memory) (a k : Nat) (v : Byte) :
    Memory.lookup (Memory.insert m a v) k = if k = a then some v else Memory.lookup m k := by
  induction m with
  | nil => simp [Memory.insert, Memory.lookup]
  | cons c m ih =>
    obtain ⟨j, b⟩ := c
    simp only [Memory.insert]
    split
    · simp only [Memory.lookup]
    · split
      · rename_i h; subst h
        simp only [Memory.lookup]
        split <;> rfl
      · rename_i h
        simp only [Memory.lookup, ih]
        by_cases hk : k = j
        · simp [hk, Ne.symm h]
        · simp [hk]

/-- A byte reads as what was last written to it; every other byte is untouched (R65). -/
theorem read_write (c : Config.Params) (m : Memory) (a k : Nat) (v : Byte) (ha : a < 4096) :
    Memory.read c (Memory.write c m a v) k = if k = a then v else Memory.read c m k := by
  simp only [Memory.read, Memory.write, if_pos ha]
  split
  · rename_i hv
    rw [lookup_remove]
    split
    · rename_i hk; simp [hk, hv]
    · rfl
  · rw [lookup_insert]
    split <;> simp

@[simp] theorem readByte_writeByte (s : State) (a k : Nat) (v : Byte) (ha : a < 4096) :
    (s.writeByte a v).readByte k = if k = a then v else s.readByte k := read_write _ _ _ _ _ ha

theorem readByte_writeByte_ne (s : State) {a k : Nat} (v : Byte) (h : k ≠ a) :
    (s.writeByte a v).readByte k = s.readByte k := by
  by_cases ha : a < 4096
  · simp [ha, h]
  · simp [State.readByte, State.writeByte, Memory.write, ha]

/-- States with the same memory and font read the same. -/
theorem readByte_congr {s t : State} (hm : t.mem = s.mem) (hc : t.config = s.config) (a : Nat) :
    t.readByte a = s.readByte a := by simp [State.readByte, hm, hc]

@[simp] theorem readByte_setV (s : State) (x : Nibble) (b : Byte) (a : Nat) : (s.setV x b).readByte a = s.readByte a := rfl
@[simp] theorem readByte_setVs (s : State) (bs : List Byte) (a : Nat) : (s.setVs bs).readByte a = s.readByte a := rfl
@[simp] theorem readByte_setI (s : State) (w : Word) (a : Nat) : (s.setI w).readByte a = s.readByte a := rfl
@[simp] theorem readByte_setPc (s : State) (w : Word) (a : Nat) : (s.setPc w).readByte a = s.readByte a := rfl
@[simp] theorem readByte_advance (s : State) (a : Nat) : s.advance.readByte a = s.readByte a := rfl
@[simp] theorem readByte_skipIf (s : State) (c : Bool) (a : Nat) : (s.skipIf c).readByte a = s.readByte a := rfl
@[simp] theorem readByte_setDT (s : State) (b : Byte) (a : Nat) : (s.setDT b).readByte a = s.readByte a := rfl
@[simp] theorem readByte_setST (s : State) (b : Byte) (a : Nat) : (s.setST b).readByte a = s.readByte a := rfl
@[simp] theorem readByte_setFrame (s : State) (f : Frame) (a : Nat) : (s.setFrame f).readByte a = s.readByte a := rfl
@[simp] theorem readByte_pushReturn (s : State) (w : Word) (a : Nat) : (s.pushReturn w).readByte a = s.readByte a := rfl
@[simp] theorem readByte_dropReturn (s : State) (a : Nat) : s.dropReturn.readByte a = s.readByte a := rfl
@[simp] theorem readByte_raise (s : State) (h : Halt) (w : Word) (a : Nat) : (s.raise h w).readByte a = s.readByte a := rfl
@[simp] theorem readByte_startCycle (e : Nat) (r : Byte) (s : State) (a : Nat) :
    (startCycle e r s).readByte a = s.readByte a := rfl

/-! ### Writing several bytes -/

/-- What `writeBytes` leaves alone: every field but `mem`. -/
theorem writeBytes_frame (s : State) (a : Nat) (bs : List Byte) :
    s.writeBytes a bs = { s with mem := (s.writeBytes a bs).mem } := by
  induction bs generalizing s a with
  | nil => rfl
  | cons b bs ih =>
    simp only [State.writeBytes]
    rw [ih]
    rfl

@[simp] theorem writeBytes_config (s : State) (a : Nat) (bs : List Byte) : (s.writeBytes a bs).config = s.config := by
  rw [writeBytes_frame]
@[simp] theorem writeBytes_v (s : State) (a : Nat) (bs : List Byte) : (s.writeBytes a bs).v = s.v := by
  rw [writeBytes_frame]
@[simp] theorem writeBytes_pc (s : State) (a : Nat) (bs : List Byte) : (s.writeBytes a bs).pc = s.pc := by
  rw [writeBytes_frame]
@[simp] theorem writeBytes_i (s : State) (a : Nat) (bs : List Byte) : (s.writeBytes a bs).i = s.i := by
  rw [writeBytes_frame]
@[simp] theorem writeBytes_halted (s : State) (a : Nat) (bs : List Byte) : (s.writeBytes a bs).halted = s.halted := by
  rw [writeBytes_frame]
@[simp] theorem writeBytes_world (s : State) (a : Nat) (bs : List Byte) : (s.writeBytes a bs).world = s.world := by
  rw [writeBytes_frame]

/-- What `writeBytes` makes of memory depends on memory and font alone. -/
theorem writeBytes_mem_congr {s t : State} (a : Nat) (bs : List Byte) (hm : t.mem = s.mem) (hc : t.config = s.config) :
    (t.writeBytes a bs).mem = (s.writeBytes a bs).mem := by
  induction bs generalizing s t a with
  | nil => exact hm
  | cons b bs ih => exact ih _ (by simp [State.writeByte, hm, hc]) hc

/-- Every byte after `writeBytes`: the written one inside the range, the old one outside it (R65, R68). -/
theorem readByte_writeBytes (s : State) (a : Nat) (bs : List Byte) (k : Nat) (h : a + bs.length ≤ 4096) :
    (s.writeBytes a bs).readByte k = if a ≤ k then bs.getD (k - a) (s.readByte k) else s.readByte k := by
  induction bs generalizing s a with
  | nil => simp [State.writeBytes]
  | cons b bs ih =>
    simp only [List.length_cons] at h
    simp only [State.writeBytes]
    rw [ih _ _ (by omega), readByte_writeByte _ _ _ _ (by omega)]
    by_cases hk : k = a
    · subst hk; simp
    · by_cases hlt : a ≤ k
      · have h1 : a + 1 ≤ k := by omega
        have h2 : k - a = (k - (a + 1)) + 1 := by omega
        simp [hk, hlt, h1, h2]
      · simp [hk, hlt, show ¬ a + 1 ≤ k by omega]

theorem readByte_writeBytes_outside (s : State) (a : Nat) (bs : List Byte) (k : Nat)
    (h : k < a ∨ a + bs.length ≤ k) : (s.writeBytes a bs).readByte k = s.readByte k := by
  induction bs generalizing s a with
  | nil => rfl
  | cons b bs ih =>
    simp only [List.length_cons] at h
    simp only [State.writeBytes]
    rw [ih _ _ (by omega), readByte_writeByte_ne _ _ (by omega)]

/-! ### The canonical form -/

theorem wfFrom_mono (c : Config.Params) {lo lo' : Nat} (m : Memory) (h : lo' ≤ lo)
    (hm : Memory.wfFrom c lo m = true) : Memory.wfFrom c lo' m = true := by
  cases m with
  | nil => rfl
  | cons e m =>
    obtain ⟨k, b⟩ := e
    simp only [Memory.wfFrom, Bool.and_eq_true, decide_eq_true_eq] at hm ⊢
    exact ⟨⟨⟨by omega, hm.1.1.2⟩, hm.1.2⟩, hm.2⟩

theorem wfFrom_remove (c : Config.Params) (lo : Nat) (m : Memory) (a : Nat)
    (hm : Memory.wfFrom c lo m = true) : Memory.wfFrom c lo (Memory.remove m a) = true := by
  induction m generalizing lo with
  | nil => rfl
  | cons e m ih =>
    obtain ⟨k, b⟩ := e
    simp only [Memory.wfFrom, Bool.and_eq_true, decide_eq_true_eq] at hm
    simp only [Memory.remove]
    split
    · exact ih lo (wfFrom_mono c m (by omega) hm.2)
    · simp only [Memory.wfFrom, Bool.and_eq_true, decide_eq_true_eq]
      exact ⟨hm.1, ih _ hm.2⟩

theorem wfFrom_insert (c : Config.Params) (lo : Nat) (m : Memory) (a : Nat) (v : Byte)
    (hlo : lo ≤ a) (ha : a < 4096) (hv : v ≠ Memory.resetByte c a)
    (hm : Memory.wfFrom c lo m = true) : Memory.wfFrom c lo (Memory.insert m a v) = true := by
  induction m generalizing lo with
  | nil => simp [Memory.insert, Memory.wfFrom, hlo, ha, hv]
  | cons e m ih =>
    obtain ⟨k, b⟩ := e
    simp only [Memory.wfFrom, Bool.and_eq_true, decide_eq_true_eq] at hm
    simp only [Memory.insert]
    split
    · simp only [Memory.wfFrom, Bool.and_eq_true, decide_eq_true_eq]
      exact ⟨⟨⟨hlo, ha⟩, by simp [hv]⟩, ⟨⟨by omega, hm.1.1.2⟩, hm.1.2⟩, hm.2⟩
    · split
      · rename_i h; subst h
        simp only [Memory.wfFrom, Bool.and_eq_true, decide_eq_true_eq]
        exact ⟨⟨⟨hlo, ha⟩, by simp [hv]⟩, hm.2⟩
      · simp only [Memory.wfFrom, Bool.and_eq_true, decide_eq_true_eq]
        exact ⟨hm.1, ih _ (by omega) hm.2⟩

/-- A write keeps the canonical form. -/
theorem write_keeps_wf (c : Config.Params) (m : Memory) (a : Nat) (v : Byte)
    (hm : Memory.wf c m = true) : Memory.wf c (Memory.write c m a v) = true := by
  simp only [Memory.write]
  split
  · split
    · exact wfFrom_remove c 0 m a hm
    · exact wfFrom_insert c 0 m a v (Nat.zero_le _) ‹_› ‹_› hm
  · exact hm

theorem writeByte_keeps_wf (s : State) (a : Nat) (v : Byte) (h : Memory.wf s.config s.mem = true) :
    Memory.wf (s.writeByte a v).config (s.writeByte a v).mem = true := write_keeps_wf _ _ _ _ h

/-- Writing several bytes keeps the canonical form. -/
theorem writeBytes_keeps_wf (s : State) (a : Nat) (bs : List Byte) (h : Memory.wf s.config s.mem = true) :
    Memory.wf s.config (s.writeBytes a bs).mem = true := by
  induction bs generalizing s a with
  | nil => exact h
  | cons b bs ih => exact ih (s.writeByte a b) (a + 1) (writeByte_keeps_wf s a b h)

/-- Memory at reset is canonical. -/
theorem reset_memory_wf : Memory.wf State.reset.config State.reset.mem = true := rfl

/-- An address below the first that may be listed is not listed. -/
theorem lookup_of_lt (c : Config.Params) (lo a : Nat) (m : Memory) (h : Memory.wfFrom c lo m = true) (ha : a < lo) :
    Memory.lookup m a = none := by
  induction m generalizing lo with
  | nil => rfl
  | cons e m ih =>
    obtain ⟨k, b⟩ := e
    simp only [Memory.wfFrom, Bool.and_eq_true, decide_eq_true_eq] at h
    simp only [Memory.lookup]
    rw [if_neg (by omega)]
    exact ih (k + 1) h.2 (by omega)

end Sys2Proof.Machine
end

