-- ==== Sys2Proof/Laws/Registers.lean ====
section
/-! SUPPORT. Reading registers after the register operations; what a skip, a flag and a checked access can do. -/

namespace Sys2Proof.Machine

/-- A register reads as what was last written to it; the others are untouched (R21). -/
@[simp] theorem getV_setV (s : State) (x y : Nibble) (b : Byte) :
    (s.setV x b).getV y = if x = y then b else s.getV y := by
  simp only [State.getV, State.setV, Vector.getElem_set, BitVec.toNat_inj]

theorem getV_setV_same (s : State) (x : Nibble) (b : Byte) : (s.setV x b).getV x = b := by simp

theorem getV_setV_ne (s : State) {x y : Nibble} (h : x ≠ y) (b : Byte) : (s.setV x b).getV y = s.getV y := by simp [h]

/-- A block load reaches exactly the registers below its length (R197). -/
theorem getV_setVs (s : State) (bs : List Byte) (y : Nibble) :
    (s.setVs bs).getV y = bs.getD y.toNat (s.getV y) := by
  simp [State.getV, State.setVs]

/-- Two states with the same registers read the same. -/
theorem getV_congr {s t : State} (h : t.v = s.v) (y : Nibble) : t.getV y = s.getV y := by simp [State.getV, h]

@[simp] theorem getV_setI (s : State) (w : Word) (y : Nibble) : (s.setI w).getV y = s.getV y := rfl
@[simp] theorem getV_setPc (s : State) (w : Word) (y : Nibble) : (s.setPc w).getV y = s.getV y := rfl
@[simp] theorem getV_advance (s : State) (y : Nibble) : s.advance.getV y = s.getV y := rfl
@[simp] theorem getV_skipIf (s : State) (c : Bool) (y : Nibble) : (s.skipIf c).getV y = s.getV y := rfl
@[simp] theorem getV_setDT (s : State) (b : Byte) (y : Nibble) : (s.setDT b).getV y = s.getV y := rfl
@[simp] theorem getV_setST (s : State) (b : Byte) (y : Nibble) : (s.setST b).getV y = s.getV y := rfl
@[simp] theorem getV_setFrame (s : State) (f : Frame) (y : Nibble) : (s.setFrame f).getV y = s.getV y := rfl
@[simp] theorem getV_pushReturn (s : State) (w : Word) (y : Nibble) : (s.pushReturn w).getV y = s.getV y := rfl
@[simp] theorem getV_dropReturn (s : State) (y : Nibble) : s.dropReturn.getV y = s.getV y := rfl
@[simp] theorem getV_writeByte (s : State) (a : Nat) (b : Byte) (y : Nibble) :
    (s.writeByte a b).getV y = s.getV y := rfl
@[simp] theorem getV_raise (s : State) (h : Halt) (w : Word) (y : Nibble) : (s.raise h w).getV y = s.getV y := rfl

/-- Result first, flag second (R176). -/
theorem getV_setResultFlag (s : State) (x y : Nibble) (r : Byte) (f : Bool) :
    (s.setResultFlag x r f).getV y = if y = 15 then flagByte f else if y = x then r else s.getV y := by
  simp only [setResultFlag_eq, getV_setV, eq_comm]

/-- The flag byte is 1 exactly when the flag holds. -/
theorem flagByte_eq_one {f : Bool} : flagByte f = 1 ↔ f = true := by cases f <;> decide

/-- A checked access answers a next state: its effect where the range exists, else the halt with no other effect (R63). -/
theorem withMemCheck_cases (s : State) (len : Nat) (effect : State) :
    (s.memCheck len = true ∧ s.withMemCheck len effect = .next effect) ∨
    (s.memCheck len = false ∧ s.withMemCheck len effect = .next (s.raise .memOutOfRange s.i)) := by
  cases h : s.memCheck len
  · exact .inr ⟨rfl, by simp [State.withMemCheck, h]⟩
  · exact .inl ⟨rfl, by simp [State.withMemCheck, h]⟩

/-- The range check in the words of R63. -/
theorem memCheck_iff (s : State) (len : Nat) : s.memCheck len = true ↔ len = 0 ∨ s.i.toNat + len ≤ 4096 := by
  simp only [State.memCheck, Bool.not_eq_true', Bool.and_eq_false_iff, decide_eq_false_iff_not]
  omega

/-- A key index of 16 or more is never down (R230). -/
theorem keyDown_of_ge (s : State) (k : Byte) (h : 16 ≤ k.toNat) : s.keyDown k = false := by
  simp [State.keyDown, Nat.not_lt.mpr h]

/-- The scan finds the lowest key that is down, and nothing exactly when none is (R233). -/
theorem firstKeyDown_eq_none (s : State) : s.firstKeyDown = none ↔ ∀ k : Fin 16, s.keys[k] = false := by
  simp [State.firstKeyDown]

theorem firstKeyDown_eq_some (s : State) (k : Fin 16) :
    s.firstKeyDown = some k ↔ s.keys[k] = true ∧ ∀ j : Fin 16, j < k → s.keys[j] = false := by
  simp only [State.firstKeyDown, List.find?_eq_some_iff_getElem, List.getElem_finRange]
  constructor
  · rintro ⟨hk, i, hi, rfl, hlt⟩
    refine ⟨hk, fun j hj => ?_⟩
    have := hlt j.val (by simpa [Fin.lt_def] using hj)
    simpa using this
  · rintro ⟨hk, hlt⟩
    refine ⟨hk, k.val, by simp, by simp, fun j hj => ?_⟩
    have := hlt ⟨j, by omega⟩ (by simpa [Fin.lt_def] using hj)
    simpa using this

end Sys2Proof.Machine
end

