-- ==== Sys2Proof/Laws/Cycle.lean ====
section
/-! SUPPORT. What the shared operations of a step can do: fetch and execute, the guard of a running core, the world's moves. -/

namespace Sys2Proof.Machine

/-- Fetch and execute halts at a `pc` that cannot be fetched from, and runs the word at `pc` otherwise (R70, R120). -/
theorem fetchExecute_cases (s : State) :
    (fetchable s.pc = false ∧ fetchExecute s = .next (s.raise .pcOutOfRange s.pc)) ∨
    (fetchable s.pc = true ∧ ∃ i, decode s.fetchWord = some i ∧ fetchExecute s = exec i s) ∨
    (fetchable s.pc = true ∧ decode s.fetchWord = none ∧ fetchExecute s = .next s.advance) := by
  cases h : fetchable s.pc
  · exact .inl ⟨rfl, by simp [fetchExecute, h]⟩
  · cases hd : decode s.fetchWord with
    | none => exact .inr (.inr ⟨rfl, rfl, by simp [fetchExecute, h, execWord, hd, execUnrecognized]⟩)
    | some i => exact .inr (.inl ⟨rfl, i, rfl, by simp [fetchExecute, h, execWord, hd]⟩)

/-- The guard: a fault once the run has ended, no change while halted, otherwise what was to happen (R257, R270). -/
theorem whileRunning_cases (s : State) (what : Result) :
    (s.world.quit = true ∧ whileRunning s what = .fault .runEnded) ∨
    (s.world.quit = false ∧ s.halted = true ∧ whileRunning s what = .next s) ∨
    (s.world.quit = false ∧ s.halted = false ∧ whileRunning s what = what) := by
  cases hq : s.world.quit <;> cases hh : s.halted <;> simp [whileRunning, hq, hh]

/-- A load: refused after the first cycle and above 3584 bytes, otherwise the image is written (R67, R267). -/
theorem hostLoadChecked_cases (image : List Byte) (s : State) :
    (s.world.started = true ∧ hostLoadChecked image s = .refused .loadAfterStart) ∨
    (s.world.started = false ∧ 3584 < image.length ∧ hostLoadChecked image s = .refused .romTooLarge) ∨
    (s.world.started = false ∧ image.length ≤ 3584 ∧ hostLoadChecked image s = .next (hostLoad image s)) := by
  by_cases h : s.world.started = true
  · exact .inl ⟨h, by simp [hostLoadChecked, h]⟩
  · simp only [Bool.not_eq_true] at h
    by_cases hl : 3584 < image.length
    · exact .inr (.inl ⟨h, hl, by simp [hostLoadChecked, h, romMax, hl]⟩)
    · exact .inr (.inr ⟨h, by omega, by simp [hostLoadChecked, h, romMax, hl]⟩)

/-- The fetch check in the words of R70. -/
theorem fetchable_iff (pc : Word) : fetchable pc = true ↔ 0x200 ≤ pc.toNat ∧ pc.toNat ≤ 0xFFE := by
  simp [fetchable]

/-- A step with an announced move performs it. -/
theorem step_of_script {s : State} {m : HostMove} {rest : List HostMove} (h : s.world.script = m :: rest) :
    step s = performMove m (s.withScript rest) := by
  simp [step, nextMove, h]

/-- A step with no announced move is a cycle on free inputs. -/
theorem step_of_no_script {s : State} (h : s.world.script = []) : step s = freeCycle s := by
  simp [step, nextMove, h]

/-- The word at `pc` is the same after the inputs are sampled and the timers checked. -/
@[simp] theorem fetchWord_startCycle (e : Nat) (r : Byte) (s : State) :
    (startCycle e r s).fetchWord = s.fetchWord := rfl

@[simp] theorem fetchWord_withScript (s : State) (l : List HostMove) : (s.withScript l).fetchWord = s.fetchWord := rfl

@[simp] theorem fetchWord_nextFree (s : State) : s.nextFree.fetchWord = s.fetchWord := rfl

/-- When the timer check of a cycle finds a tick due, in the words of R261. -/
theorem tickDue_sampleInputs (e : Nat) (r : Byte) (s : State) :
    (sampleInputs e r s).tickDue = true ↔ s.config.tickPeriodUs ≤ s.world.nowUs + e - s.lastTick :=
  decide_eq_true_iff

/-- A count down is by one where a tick is due, floored at 0 (R261). -/
theorem countDown_toNat (t : Byte) (due : Bool) :
    (countDown t due).toNat = if due then t.toNat - 1 else t.toNat := by
  by_cases h : t = 0
  · subst h; cases due <;> rfl
  · have hpos : 0 < t.toNat := Nat.pos_of_ne_zero fun h0 => h (BitVec.eq_of_toNat_eq (by simpa using h0))
    cases due
    · simp only [countDown, if_neg h, Bool.false_eq_true, if_false]
    · have := t.isLt
      simp only [countDown, if_neg h, if_true, BitVec.toNat_sub]
      simp
      omega

end Sys2Proof.Machine
end

