-- ==== Sys2Proof/Laws/Decode.lean ====
section
/-! SUPPORT. The fields of a word built from its parts, a word rebuilt from its fields, and what a row's mask fixes
(spec/30_encoding.md rules R91, R92, R96). -/

namespace Sys2Proof

/-! ### Fields of built words (R91, R92) -/

@[simp] theorem fieldU_wordXYN (u x y n : Nibble) : fieldU (wordXYN u x y n) = u := by
  apply BitVec.eq_of_getLsbD_eq
  intro i hi
  interval_cases i <;> simp [fieldU, wordXYN]

@[simp] theorem fieldX_wordXYN (u x y n : Nibble) : fieldX (wordXYN u x y n) = x := by
  apply BitVec.eq_of_getLsbD_eq
  intro i hi
  interval_cases i <;> simp [fieldX, wordXYN]

@[simp] theorem fieldY_wordXYN (u x y n : Nibble) : fieldY (wordXYN u x y n) = y := by
  apply BitVec.eq_of_getLsbD_eq
  intro i hi
  interval_cases i <;> simp [fieldY, wordXYN]

@[simp] theorem fieldN_wordXYN (u x y n : Nibble) : fieldN (wordXYN u x y n) = n := by
  apply BitVec.eq_of_getLsbD_eq
  intro i hi
  interval_cases i <;> simp [fieldN, wordXYN]

@[simp] theorem fieldU_wordXK (u x : Nibble) (kk : Byte) : fieldU (wordXK u x kk) = u := by
  apply BitVec.eq_of_getLsbD_eq
  intro i hi
  interval_cases i <;> simp [fieldU, wordXK]

@[simp] theorem fieldX_wordXK (u x : Nibble) (kk : Byte) : fieldX (wordXK u x kk) = x := by
  apply BitVec.eq_of_getLsbD_eq
  intro i hi
  interval_cases i <;> simp [fieldX, wordXK]

@[simp] theorem fieldKK_wordXK (u x : Nibble) (kk : Byte) : fieldKK (wordXK u x kk) = kk := by
  apply BitVec.eq_of_getLsbD_eq
  intro i hi
  interval_cases i <;> simp [fieldKK, wordXK]

@[simp] theorem fieldU_wordA (u : Nibble) (nnn : Addr) : fieldU (wordA u nnn) = u := by
  apply BitVec.eq_of_getLsbD_eq
  intro i hi
  interval_cases i <;> simp [fieldU, wordA]

@[simp] theorem fieldNNN_wordA (u : Nibble) (nnn : Addr) : fieldNNN (wordA u nnn) = nnn := by
  apply BitVec.eq_of_getLsbD_eq
  intro i hi
  interval_cases i <;> simp [fieldNNN, wordA]

/-! ### Words rebuilt from their fields -/

theorem wordXYN_fields (w : Word) : wordXYN (fieldU w) (fieldX w) (fieldY w) (fieldN w) = w := by
  apply BitVec.eq_of_getLsbD_eq
  intro i hi
  interval_cases i <;> simp [wordXYN, fieldU, fieldX, fieldY, fieldN]

theorem wordXK_fields (w : Word) : wordXK (fieldU w) (fieldX w) (fieldKK w) = w := by
  apply BitVec.eq_of_getLsbD_eq
  intro i hi
  interval_cases i <;> simp [wordXK, fieldU, fieldX, fieldKK]

theorem wordA_fields (w : Word) : wordA (fieldU w) (fieldNNN w) = w := by
  apply BitVec.eq_of_getLsbD_eq
  intro i hi
  interval_cases i <;> simp [wordA, fieldU, fieldNNN]

@[simp] theorem wordOfBytes_bytes (w : Word) : wordOfBytes (highByte w) (lowByte w) = w := by
  apply BitVec.eq_of_getLsbD_eq
  intro i hi
  interval_cases i <;> simp [wordOfBytes, highByte, lowByte]

@[simp] theorem highByte_wordOfBytes (hi lo : Byte) : highByte (wordOfBytes hi lo) = hi := by
  apply BitVec.eq_of_getLsbD_eq
  intro i hlt
  interval_cases i <;> simp [wordOfBytes, highByte]

@[simp] theorem lowByte_wordOfBytes (hi lo : Byte) : lowByte (wordOfBytes hi lo) = lo := by
  apply BitVec.eq_of_getLsbD_eq
  intro i hlt
  interval_cases i <;> simp [wordOfBytes, lowByte]

/-- The word of two bytes as a number, the first byte the more significant (R66). -/
theorem toNat_wordOfBytes (hi lo : Byte) : (wordOfBytes hi lo).toNat = hi.toNat * 256 + lo.toNat := by
  have hh := hi.isLt
  have hl := lo.isLt
  simp only [wordOfBytes, BitVec.toNat_or, BitVec.toNat_shiftLeft, BitVec.toNat_setWidth]
  rw [Nat.mod_eq_of_lt (show hi.toNat < 2 ^ 16 by omega), Nat.mod_eq_of_lt (show lo.toNat < 2 ^ 16 by omega),
    Nat.shiftLeft_eq, Nat.mod_eq_of_lt (by omega), show hi.toNat * 2 ^ 8 = 2 ^ 8 * hi.toNat by omega,
    ← Nat.two_pow_add_eq_or_of_lt (by omega)]
  omega

/-! ### What a row's mask fixes (R96) -/

/-- A mask of `0xF000` fixes the class nibble. -/
theorem fieldU_of_mask_F000 {w p : Word} (h : w &&& 0xF000 = p) : fieldU w = fieldU p := by
  have h1 := congrArg fieldU h
  have hm : ∀ u : Nibble, u &&& 15#4 = u := fun _ => BitVec.and_allOnes
  simpa [fieldU, BitVec.extractLsb'_and, hm] using h1

/-- A mask of `0xF00F` fixes the class nibble and the sub-opcode `n`. -/
theorem fields_of_mask_F00F {w p : Word} (h : w &&& 0xF00F = p) : fieldU w = fieldU p ∧ fieldN w = fieldN p := by
  have h1 := congrArg fieldU h
  have h2 := congrArg fieldN h
  have hm : ∀ u : Nibble, u &&& 15#4 = u := fun _ => BitVec.and_allOnes
  simp only [fieldU, fieldN, BitVec.extractLsb'_and] at h1 h2
  exact ⟨by simpa [fieldU, hm] using h1, by simpa [fieldN, hm] using h2⟩

/-- A mask of `0xF0FF` fixes the class nibble and the sub-opcode `kk`. -/
theorem fields_of_mask_F0FF {w p : Word} (h : w &&& 0xF0FF = p) : fieldU w = fieldU p ∧ fieldKK w = fieldKK p := by
  have h1 := congrArg fieldU h
  have h2 := congrArg fieldKK h
  have hm : ∀ u : Nibble, u &&& 15#4 = u := fun _ => BitVec.and_allOnes
  have hk : ∀ u : Byte, u &&& 255#8 = u := fun _ => BitVec.and_allOnes
  simp only [fieldU, fieldKK, BitVec.extractLsb'_and] at h1 h2
  exact ⟨by simpa [fieldU, hm] using h1, by simpa [fieldKK, hk] using h2⟩

end Sys2Proof
end

