-- ==== Sys2Proof/Laws/Display.lean ====
section
/-! SUPPORT. What one `DRAW` does to every pixel and to the collision flag (spec/44_display.md rules R213, R214). -/

namespace Sys2Proof.Machine

/-! ### Pixels -/

/-- XOR at one pixel touches that pixel alone. -/
theorem pixel_xorPixel (f : Frame) (px qx : Fin 64) (py qy : Fin 32) (b : Bool) :
    (f.xorPixel px py b).pixel qx qy = (f.pixel qx qy ^^ (b && (px == qx && py == qy))) := by
  cases b
  · simp [Frame.xorPixel]
  · by_cases hy : py = qy
    · subst hy
      by_cases hx : px = qx
      · subst hx
        simp [Frame.xorPixel, Frame.pixel, BitVec.getElem_twoPow]
      · have hne : px.val ≠ qx.val := fun h => hx (Fin.ext h)
        simp [Frame.xorPixel, Frame.pixel, BitVec.getElem_twoPow, beq_false_of_ne hx, Ne.symm hne]
    · have hne : py.val ≠ qy.val := fun h => hy (Fin.ext h)
      simp [Frame.xorPixel, Frame.pixel, beq_false_of_ne hy, Vector.getElem_set_ne, hne]

@[simp] theorem pixel_blank (px : Fin 64) (py : Fin 32) : Frame.blank.pixel px py = false := by
  simp [Frame.blank, Frame.pixel]

/-- Two frame buffers with the same pixels are the same. -/
theorem frame_ext {f g : Frame} (h : ∀ px py, f.pixel px py = g.pixel px py) : f = g := by
  apply Vector.ext
  intro y hy
  apply BitVec.eq_of_getLsbD_eq
  intro x hx
  exact h ⟨x, hx⟩ ⟨y, hy⟩

/-! ### Wrap-around (R213) -/

/-- The columns of one sprite row land on distinct pixels. -/
theorem wrapColumn_inj {vx : Byte} {c d : Nat} (hc : c < 64) (hd : d < 64)
    (h : wrapColumn vx c = wrapColumn vx d) : c = d := by
  have := congrArg Fin.val h
  simp only [wrapColumn, Fin.val_ofNat] at this
  omega

/-- The rows of one sprite land on distinct pixel rows. -/
theorem wrapRow_inj {vy : Byte} {r q : Nat} (hr : r < 32) (hq : q < 32) (h : wrapRow vy r = wrapRow vy q) : r = q := by
  have := congrArg Fin.val h
  simp only [wrapRow, Fin.val_ofNat] at this
  omega

/-! ### One row -/

/-- The first `k` columns of a sprite row toggle this pixel of its pixel row. -/
def rowToggles (b vx : Byte) (k : Nat) (qx : Fin 64) : Bool :=
  (List.range k).any fun c => wrapColumn vx c == qx && spriteBit b c

/-- The first `k` columns of a sprite row meet a pixel that is on. -/
def rowCollides (b vx : Byte) (py : Fin 32) (f : Frame) (k : Nat) : Bool :=
  (List.range k).any fun c => spriteBit b c && f.pixel (wrapColumn vx c) py

/-- The first `k` columns of a row: every pixel, and the collision. No pixel is met twice, so the collision is about the
pixels as they were (R214). -/
theorem drawColumns (b vx : Byte) (py : Fin 32) (acc : Frame × Bool) (k : Nat) (hk : k ≤ 64) :
    (∀ qx qy, ((List.range k).foldl (drawPixel b vx py) acc).1.pixel qx qy =
      (acc.1.pixel qx qy ^^ (rowToggles b vx k qx && py == qy))) ∧
    ((List.range k).foldl (drawPixel b vx py) acc).2 = (acc.2 || rowCollides b vx py acc.1 k) := by
  induction k with
  | zero => simp [rowToggles, rowCollides]
  | succ k ih =>
    obtain ⟨ihp, ihc⟩ := ih (by omega)
    have fresh : rowToggles b vx k (wrapColumn vx k) = false := by
      simp only [rowToggles, List.any_eq_false, List.mem_range, Bool.and_eq_true, beq_iff_eq, not_and]
      intro c hc h
      have := wrapColumn_inj (by omega) (by omega) h
      omega
    simp only [List.range_succ, List.foldl_append, List.foldl_cons, List.foldl_nil, drawPixel]
    constructor
    · intro qx qy
      rw [pixel_xorPixel, ihp]
      have hsplit : rowToggles b vx (k + 1) qx = (rowToggles b vx k qx || (wrapColumn vx k == qx && spriteBit b k)) := by
        simp [rowToggles, List.range_succ]
      rw [hsplit]
      by_cases hq : wrapColumn vx k = qx
      · subst hq
        rw [fresh]
        cases spriteBit b k <;> simp
      · simp [beq_false_of_ne hq]
    · rw [ihc, ihp, fresh]
      simp [rowCollides, List.range_succ, Bool.or_assoc]

/-! ### The whole sprite -/

/-- The first `n` rows of a sprite toggle this pixel. -/
def spriteToggles (s : State) (vx vy : Byte) (n : Nat) (qx : Fin 64) (qy : Fin 32) : Bool :=
  (List.range n).any fun r => wrapRow vy r == qy && rowToggles (s.readByte (s.effAddr r)) vx 8 qx

/-- The first `n` rows of a sprite meet a pixel that is on. -/
def spriteCollides (s : State) (vx vy : Byte) (n : Nat) : Bool :=
  (List.range n).any fun r => rowCollides (s.readByte (s.effAddr r)) vx (wrapRow vy r) s.fb 8

/-- A `DRAW` of at most 32 rows: every pixel is the XOR of what it was and the sprite's bit, and the collision says whether
one was on under a sprite bit (R214). -/
theorem drawSprite_spec (s : State) (vx vy : Byte) (n : Nat) (hn : n ≤ 32) :
    (∀ qx qy, (s.drawSprite vx vy n).1.pixel qx qy = (s.fb.pixel qx qy ^^ spriteToggles s vx vy n qx qy)) ∧
    (s.drawSprite vx vy n).2 = spriteCollides s vx vy n := by
  induction n with
  | zero => simp [State.drawSprite, spriteToggles, spriteCollides]
  | succ n ih =>
    obtain ⟨ihp, ihc⟩ := ih (by omega)
    have fresh : ∀ qx, spriteToggles s vx vy n qx (wrapRow vy n) = false := by
      intro qx
      simp only [spriteToggles, List.any_eq_false, List.mem_range, Bool.and_eq_true, beq_iff_eq, not_and]
      intro r hr h
      have := wrapRow_inj (by omega) (by omega) h
      omega
    have step : s.drawSprite vx vy (n + 1) = s.drawRow vx vy (s.drawSprite vx vy n) n := by
      simp [State.drawSprite, List.range_succ]
    rw [step, State.drawRow]
    obtain ⟨hp, hc⟩ := drawColumns (s.readByte (s.effAddr n)) vx (wrapRow vy n) (s.drawSprite vx vy n) 8 (by omega)
    constructor
    · intro qx qy
      rw [hp, ihp]
      have hsplit : spriteToggles s vx vy (n + 1) qx qy =
          (spriteToggles s vx vy n qx qy || (wrapRow vy n == qy && rowToggles (s.readByte (s.effAddr n)) vx 8 qx)) := by
        simp [spriteToggles, List.range_succ]
      rw [hsplit]
      by_cases hq : wrapRow vy n = qy
      · subst hq
        rw [fresh]
        simp
      · simp [beq_false_of_ne hq]
    · rw [hc, ihc]
      have same : rowCollides (s.readByte (s.effAddr n)) vx (wrapRow vy n) (s.drawSprite vx vy n).1 8 =
          rowCollides (s.readByte (s.effAddr n)) vx (wrapRow vy n) s.fb 8 := by
        simp only [rowCollides, ihp, fresh, Bool.xor_false]
      rw [same]
      simp [spriteCollides, List.range_succ]

/-- A sprite meets a pixel that is on exactly where it toggles one (R214). -/
theorem spriteCollides_iff (s : State) (vx vy : Byte) (n : Nat) :
    spriteCollides s vx vy n = true ↔ ∃ px py, s.fb.pixel px py = true ∧ spriteToggles s vx vy n px py = true := by
  simp only [spriteCollides, spriteToggles, rowCollides, rowToggles, List.any_eq_true, List.mem_range, Bool.and_eq_true,
    beq_iff_eq]
  constructor
  · rintro ⟨r, hr, c, hc, hb, hp⟩
    exact ⟨_, _, hp, r, hr, rfl, c, hc, rfl, hb⟩
  · rintro ⟨px, py, hp, r, hr, rfl, c, hc, rfl, hb⟩
    exact ⟨r, hr, c, hc, hb, hp⟩

/-- A sprite depends on memory, `I` and the frame buffer alone. -/
theorem drawSprite_congr {s t : State} (vx vy : Byte) (n : Nat) (hm : t.mem = s.mem) (hc : t.config = s.config)
    (hi : t.i = s.i) (hf : t.fb = s.fb) : t.drawSprite vx vy n = s.drawSprite vx vy n := by
  have hb : ∀ a, Memory.read t.config t.mem a = Memory.read s.config s.mem a := fun a => by rw [hm, hc]
  have hr : t.drawRow = s.drawRow := by
    funext vx vy acc r
    simp only [State.drawRow, State.effAddr, hi, State.readByte, hb]
  simp only [State.drawSprite, hr, hf]

/-- The same in the words of R212 and R213. -/
theorem spriteToggles_iff (s : State) (vx vy : Byte) (n : Nat) (px : Fin 64) (py : Fin 32) :
    spriteToggles s vx vy n px py = true ↔
      ∃ r c, r < n ∧ c < 8 ∧ px.val = (vx.toNat + c) % 64 ∧ py.val = (vy.toNat + r) % 32 ∧
        (s.readByte (s.i.toNat + r)).getLsbD (7 - c) = true := by
  simp only [spriteToggles, rowToggles, List.any_eq_true, List.mem_range, Bool.and_eq_true, beq_iff_eq, wrapColumn,
    wrapRow, spriteBit, State.effAddr, Fin.ext_iff, Fin.val_ofNat]
  constructor
  · rintro ⟨r, hr, hy, c, hc, hx, hb⟩
    exact ⟨r, c, hr, hc, hx.symm, hy.symm, hb⟩
  · rintro ⟨r, c, hr, hc, hx, hy, hb⟩
    exact ⟨r, hr, hy.symm, c, hc, hx.symm, hb⟩

end Sys2Proof.Machine
end

