-- ==== Sys2Proof/Laws/Exec.lean ====
section
/-! SUPPORT. The next state of each instruction that checks something first, on either side of its check; the register block
of `STM` and `LDM`. -/

namespace Sys2Proof.Machine

/-! ### The stack (R140, R142) -/

theorem execCall_below_top (nnn : Addr) {s : State} (h : s.sp ≠ 15) :
    execCall nnn s = .next ((s.pushReturn (s.pc + 2)).setPc (zextAddr nnn)) := by
  rw [execCall, if_neg h]

theorem execCall_at_top (nnn : Addr) {s : State} (h : s.sp = 15) :
    execCall nnn s = .next (s.raise .stackOverflow s.pc) := by
  rw [execCall, if_pos h]

theorem execRet_not_empty {s : State} (h : s.sp ≠ 0) : execRet s = .next (s.setPc s.stackTop).dropReturn := by
  rw [execRet, if_neg h]

theorem execRet_empty {s : State} (h : s.sp = 0) : execRet s = .next (s.raise .stackUnderflow s.pc) := by
  rw [execRet, if_pos h]

/-! ### Checked accesses (R194) -/

/-- The range exists: the access has its effect. -/
theorem withMemCheck_in_range {s : State} {len : Nat} (h : len = 0 ∨ s.i.toNat + len ≤ 4096) (effect : State) :
    s.withMemCheck len effect = .next effect := by
  rw [State.withMemCheck, if_pos ((memCheck_iff s len).2 h)]

/-- The range passes the end of memory: the access halts. -/
theorem withMemCheck_out_of_range {s : State} {len : Nat} (h0 : len ≠ 0) (h : 4096 < s.i.toNat + len) (effect : State) :
    s.withMemCheck len effect = .next (s.raise .memOutOfRange s.i) := by
  rw [State.withMemCheck, if_neg]
  rw [memCheck_iff]
  omega

/-- Writing a block and advancing leaves every field but `mem` and `pc` alone. -/
theorem writeBytes_advance_frame (s : State) (a : Nat) (bs : List Byte) :
    (s.writeBytes a bs).advance = { s with mem := (s.writeBytes a bs).mem, pc := s.pc + 2 } := by
  rw [State.advance, State.setPc, writeBytes_frame]

/-! ### The register block (R196, R197) -/

@[simp] theorem length_regBlock (s : State) (x : Nibble) : (s.regBlock x).length = x.toNat + 1 := by
  simp [State.regBlock]

@[simp] theorem length_bytesAtI (s : State) (n : Nat) : (s.bytesAtI n).length = n := by
  simp [State.bytesAtI, State.readBytes]

@[simp] theorem length_bcdDigits (b : Byte) : (bcdDigits b).length = 3 := rfl

/-- Entry `k` of the block is `V[k]`. -/
theorem getD_regBlock (s : State) {x k : Nibble} (h : k.toNat ≤ x.toNat) (d : Byte) :
    (s.regBlock x).getD k.toNat d = s.getV k := by
  simp [State.regBlock, List.getD_eq_getElem?_getD, List.getElem?_range (show k.toNat < x.toNat + 1 by omega)]

/-- Entry `k` of the bytes at `I` is the byte at `I + k`. -/
theorem getD_bytesAtI (s : State) {n k : Nat} (h : k < n) (d : Byte) :
    (s.bytesAtI n).getD k d = s.readByte (s.effAddr k) := by
  simp [State.bytesAtI, State.readBytes, List.getD_eq_getElem?_getD, List.getElem?_range h, State.effAddr]

/-- Beyond its length the block gives nothing. -/
theorem getD_bytesAtI_of_le (s : State) {n k : Nat} (h : n ≤ k) (d : Byte) : (s.bytesAtI n).getD k d = d := by
  simp [List.getD_eq_getElem?_getD, List.getElem?_eq_none (show (s.bytesAtI n).length ≤ k by simpa using h)]

/-! ### Operands -/

/-- The key test in the words of R230. -/
theorem keyDown_iff (s : State) (k : Byte) : s.keyDown k = true ↔ KeyIsDown s k := by
  unfold State.keyDown KeyIsDown
  split <;> simp [*]

/-- A 12-bit address keeps its value (R93). -/
theorem toNat_zextAddr (nnn : Addr) : (zextAddr nnn).toNat = nnn.toNat := by
  simp [zextAddr]
  omega

/-- A byte keeps its value (R93). -/
theorem toNat_zextByte (b : Byte) : (zextByte b).toNat = b.toNat := by
  simp [zextByte]
  omega

end Sys2Proof.Machine
end

