-- ==== Sys2Proof/Laws/PerInstr.lean ====
section
/-! SUPPORT. Statements made of every instruction as syntax, one lemma per constructor. -/

/-- The word of an instruction selects the instruction's own row of the opcode table (spec/30_encoding.md rule R96). -/
def Sys2Proof.Laws.EncodesInRow.Statement (i : Sys2Proof.Instr) : Prop :=
  ∃ r ∈ Sys2Proof.opcodeTable, r.tag = i.tag ∧ r.selects (Sys2Proof.encode i) = true

namespace Sys2Proof.Laws.EncodesInRow

open Sys2Proof

/-- Format `A`: the class nibble survives the mask. -/
theorem wordA_mask (u : Nibble) (nnn : Addr) : wordA u nnn &&& 0xF000 = wordA u 0 := by
  apply BitVec.eq_of_getLsbD_eq
  intro i hi
  interval_cases i <;> simp [wordA]

/-- Formats `Z` and `XO`: the class nibble and `kk` survive the mask. -/
theorem wordXK_mask_F0FF (u x : Nibble) (kk : Byte) : wordXK u x kk &&& 0xF0FF = wordXK u 0 kk := by
  apply BitVec.eq_of_getLsbD_eq
  intro i hi
  interval_cases i <;> simp [wordXK]

/-- Format `XK`: the class nibble survives the mask. -/
theorem wordXK_mask_F000 (u x : Nibble) (kk : Byte) : wordXK u x kk &&& 0xF000 = wordXK u 0 0 := by
  apply BitVec.eq_of_getLsbD_eq
  intro i hi
  interval_cases i <;> simp [wordXK]

/-- Format `XYO`: the class nibble and the sub-opcode survive the mask. -/
theorem wordXYN_mask_F00F (u x y n : Nibble) : wordXYN u x y n &&& 0xF00F = wordXYN u 0 0 n := by
  apply BitVec.eq_of_getLsbD_eq
  intro i hi
  interval_cases i <;> simp [wordXYN]

/-- Formats `XY` and `XYN`: the class nibble survives the mask. -/
theorem wordXYN_mask_F000 (u x y n : Nibble) : wordXYN u x y n &&& 0xF000 = wordXYN u 0 0 0 := by
  apply BitVec.eq_of_getLsbD_eq
  intro i hi
  interval_cases i <;> simp [wordXYN]

theorem clear (x : Nibble) : Statement (.clear x) :=
  ⟨⟨.clear, 0x00E0, 0xF0FF⟩, by decide, rfl, by simp only [Row.selects, encode, wordXK_mask_F0FF]; decide⟩

theorem ret (x : Nibble) : Statement (.ret x) :=
  ⟨⟨.ret, 0x00EE, 0xF0FF⟩, by decide, rfl, by simp only [Row.selects, encode, wordXK_mask_F0FF]; decide⟩

theorem jmp (nnn : Addr) : Statement (.jmp nnn) :=
  ⟨⟨.jmp, 0x1000, 0xF000⟩, by decide, rfl, by simp only [Row.selects, encode, wordA_mask]; decide⟩

theorem call (nnn : Addr) : Statement (.call nnn) :=
  ⟨⟨.call, 0x2000, 0xF000⟩, by decide, rfl, by simp only [Row.selects, encode, wordA_mask]; decide⟩

theorem skei (x : Nibble) (kk : Byte) : Statement (.skei x kk) :=
  ⟨⟨.skei, 0x3000, 0xF000⟩, by decide, rfl, by simp only [Row.selects, encode, wordXK_mask_F000]; decide⟩

theorem sknei (x : Nibble) (kk : Byte) : Statement (.sknei x kk) :=
  ⟨⟨.sknei, 0x4000, 0xF000⟩, by decide, rfl, by simp only [Row.selects, encode, wordXK_mask_F000]; decide⟩

theorem ske (x y n : Nibble) : Statement (.ske x y n) :=
  ⟨⟨.ske, 0x5000, 0xF000⟩, by decide, rfl, by simp only [Row.selects, encode, wordXYN_mask_F000]; decide⟩

theorem movi (x : Nibble) (kk : Byte) : Statement (.movi x kk) :=
  ⟨⟨.movi, 0x6000, 0xF000⟩, by decide, rfl, by simp only [Row.selects, encode, wordXK_mask_F000]; decide⟩

theorem addi (x : Nibble) (kk : Byte) : Statement (.addi x kk) :=
  ⟨⟨.addi, 0x7000, 0xF000⟩, by decide, rfl, by simp only [Row.selects, encode, wordXK_mask_F000]; decide⟩

theorem mov (x y : Nibble) : Statement (.mov x y) :=
  ⟨⟨.mov, 0x8000, 0xF00F⟩, by decide, rfl, by simp only [Row.selects, encode, wordXYN_mask_F00F]; decide⟩

theorem or (x y : Nibble) : Statement (.or x y) :=
  ⟨⟨.or, 0x8001, 0xF00F⟩, by decide, rfl, by simp only [Row.selects, encode, wordXYN_mask_F00F]; decide⟩

theorem and (x y : Nibble) : Statement (.and x y) :=
  ⟨⟨.and, 0x8002, 0xF00F⟩, by decide, rfl, by simp only [Row.selects, encode, wordXYN_mask_F00F]; decide⟩

theorem xor (x y : Nibble) : Statement (.xor x y) :=
  ⟨⟨.xor, 0x8003, 0xF00F⟩, by decide, rfl, by simp only [Row.selects, encode, wordXYN_mask_F00F]; decide⟩

theorem add (x y : Nibble) : Statement (.add x y) :=
  ⟨⟨.add, 0x8004, 0xF00F⟩, by decide, rfl, by simp only [Row.selects, encode, wordXYN_mask_F00F]; decide⟩

theorem sub (x y : Nibble) : Statement (.sub x y) :=
  ⟨⟨.sub, 0x8005, 0xF00F⟩, by decide, rfl, by simp only [Row.selects, encode, wordXYN_mask_F00F]; decide⟩

theorem shr (x y : Nibble) : Statement (.shr x y) :=
  ⟨⟨.shr, 0x8006, 0xF00F⟩, by decide, rfl, by simp only [Row.selects, encode, wordXYN_mask_F00F]; decide⟩

theorem subn (x y : Nibble) : Statement (.subn x y) :=
  ⟨⟨.subn, 0x8007, 0xF00F⟩, by decide, rfl, by simp only [Row.selects, encode, wordXYN_mask_F00F]; decide⟩

theorem shl (x y : Nibble) : Statement (.shl x y) :=
  ⟨⟨.shl, 0x800E, 0xF00F⟩, by decide, rfl, by simp only [Row.selects, encode, wordXYN_mask_F00F]; decide⟩

theorem skne (x y n : Nibble) : Statement (.skne x y n) :=
  ⟨⟨.skne, 0x9000, 0xF000⟩, by decide, rfl, by simp only [Row.selects, encode, wordXYN_mask_F000]; decide⟩

theorem seti (nnn : Addr) : Statement (.seti nnn) :=
  ⟨⟨.seti, 0xA000, 0xF000⟩, by decide, rfl, by simp only [Row.selects, encode, wordA_mask]; decide⟩

theorem jmpv (nnn : Addr) : Statement (.jmpv nnn) :=
  ⟨⟨.jmpv, 0xB000, 0xF000⟩, by decide, rfl, by simp only [Row.selects, encode, wordA_mask]; decide⟩

theorem rnd (x : Nibble) (kk : Byte) : Statement (.rnd x kk) :=
  ⟨⟨.rnd, 0xC000, 0xF000⟩, by decide, rfl, by simp only [Row.selects, encode, wordXK_mask_F000]; decide⟩

theorem draw (x y n : Nibble) : Statement (.draw x y n) :=
  ⟨⟨.draw, 0xD000, 0xF000⟩, by decide, rfl, by simp only [Row.selects, encode, wordXYN_mask_F000]; decide⟩

theorem skp (x : Nibble) : Statement (.skp x) :=
  ⟨⟨.skp, 0xE09E, 0xF0FF⟩, by decide, rfl, by simp only [Row.selects, encode, wordXK_mask_F0FF]; decide⟩

theorem sknp (x : Nibble) : Statement (.sknp x) :=
  ⟨⟨.sknp, 0xE0A1, 0xF0FF⟩, by decide, rfl, by simp only [Row.selects, encode, wordXK_mask_F0FF]; decide⟩

theorem getdt (x : Nibble) : Statement (.getdt x) :=
  ⟨⟨.getdt, 0xF007, 0xF0FF⟩, by decide, rfl, by simp only [Row.selects, encode, wordXK_mask_F0FF]; decide⟩

theorem waitk (x : Nibble) : Statement (.waitk x) :=
  ⟨⟨.waitk, 0xF00A, 0xF0FF⟩, by decide, rfl, by simp only [Row.selects, encode, wordXK_mask_F0FF]; decide⟩

theorem setdt (x : Nibble) : Statement (.setdt x) :=
  ⟨⟨.setdt, 0xF015, 0xF0FF⟩, by decide, rfl, by simp only [Row.selects, encode, wordXK_mask_F0FF]; decide⟩

theorem setst (x : Nibble) : Statement (.setst x) :=
  ⟨⟨.setst, 0xF018, 0xF0FF⟩, by decide, rfl, by simp only [Row.selects, encode, wordXK_mask_F0FF]; decide⟩

theorem iadd (x : Nibble) : Statement (.iadd x) :=
  ⟨⟨.iadd, 0xF01E, 0xF0FF⟩, by decide, rfl, by simp only [Row.selects, encode, wordXK_mask_F0FF]; decide⟩

theorem font (x : Nibble) : Statement (.font x) :=
  ⟨⟨.font, 0xF029, 0xF0FF⟩, by decide, rfl, by simp only [Row.selects, encode, wordXK_mask_F0FF]; decide⟩

theorem bcd (x : Nibble) : Statement (.bcd x) :=
  ⟨⟨.bcd, 0xF033, 0xF0FF⟩, by decide, rfl, by simp only [Row.selects, encode, wordXK_mask_F0FF]; decide⟩

theorem stm (x : Nibble) : Statement (.stm x) :=
  ⟨⟨.stm, 0xF055, 0xF0FF⟩, by decide, rfl, by simp only [Row.selects, encode, wordXK_mask_F0FF]; decide⟩

theorem ldm (x : Nibble) : Statement (.ldm x) :=
  ⟨⟨.ldm, 0xF065, 0xF0FF⟩, by decide, rfl, by simp only [Row.selects, encode, wordXK_mask_F0FF]; decide⟩

end Sys2Proof.Laws.EncodesInRow
end

