-- ==== Sys2Proof/Tests/Slice0.lean ====
section
/-! SUPPORT. Tests of the model. The expected results are those of spec/95_test_vectors.md and of the examples of the rules
themselves. The theorems named `witness_…` show states and operands that meet the hypotheses of the statements, each
clause at the edge of its range. -/

namespace Sys2Proof.Tests

open Sys2Proof Sys2Proof.Machine

/-- The next state, where there is one. -/
def nextOf : Result → Option State
  | .next t => some t
  | .fault _ => none
  | .refused _ => none

/-- What holds of the state after a word was executed, read off by `f`. -/
def afterWord {α : Type} (w : Word) (s : State) (f : State → α) : Option α := (nextOf (execWord w s)).map f

/-- The reset state with two registers set. -/
def with2 (x : Nibble) (a : Byte) (y : Nibble) (b : Byte) : State := (State.reset.setV x a).setV y b

/-- The reset state with other moves of the world to come. -/
def withMoves (l : List HostMove) : State := State.reset.withScript l

/-- The reset state, halted at a stack underflow. -/
def halted : State := State.reset.raise .stackUnderflow 0x200

/-! ### Well-formedness (R108) -/

theorem test_illFormed_clear : ¬(Instr.clear 1).WellFormed := by decide
theorem test_illFormed_ret : ¬(Instr.ret 0xF).WellFormed := by decide
theorem test_illFormed_ske : ¬(Instr.ske 3 4 7).WellFormed := by decide
theorem test_illFormed_skne : ¬(Instr.skne 3 4 0xF).WellFormed := by decide
theorem test_illFormed_shr : ¬(Instr.shr 3 0xA).WellFormed := by decide
theorem test_illFormed_shl : ¬(Instr.shl 3 1).WellFormed := by decide
theorem test_wellFormed : (Instr.clear 0).WellFormed ∧ (Instr.ret 0).WellFormed ∧ (Instr.ske 3 4 0).WellFormed ∧
    (Instr.skne 3 3 0).WellFormed ∧ (Instr.shr 0xF 0).WellFormed ∧ (Instr.shl 3 0).WellFormed ∧
    (Instr.draw 0xF 0xF 0xF).WellFormed := by decide

/-! ### Decoding and encoding (spec/95_test_vectors.md section 2.1, spec/30_encoding.md R108, R110) -/

theorem test_decode_class0 : decode 0x00E0 = some (.clear 0) ∧ decode 0x0AE0 = some (.clear 0xA) ∧
    decode 0x00EE = some (.ret 0) ∧ decode 0x0FEE = some (.ret 0xF) := by decide
theorem test_decode_jumps : decode 0x1234 = some (.jmp 0x234) ∧ decode 0x2FFF = some (.call 0xFFF) ∧
    decode 0xB123 = some (.jmpv 0x123) := by decide
theorem test_decode_skips : decode 0x3A55 = some (.skei 0xA 0x55) ∧ decode 0x4A55 = some (.sknei 0xA 0x55) ∧
    decode 0x5AB0 = some (.ske 0xA 0xB 0) ∧ decode 0x5AB7 = some (.ske 0xA 0xB 7) ∧
    decode 0x9AB0 = some (.skne 0xA 0xB 0) ∧ decode 0x9ABF = some (.skne 0xA 0xB 0xF) := by decide
theorem test_decode_immediates : decode 0x6C42 = some (.movi 0xC 0x42) ∧ decode 0x7C42 = some (.addi 0xC 0x42) ∧
    decode 0xA123 = some (.seti 0x123) ∧ decode 0xC10F = some (.rnd 1 0x0F) := by decide
theorem test_decode_class8 : decode 0x8AB0 = some (.mov 0xA 0xB) ∧ decode 0x8AB1 = some (.or 0xA 0xB) ∧
    decode 0x8AB2 = some (.and 0xA 0xB) ∧ decode 0x8AB3 = some (.xor 0xA 0xB) ∧ decode 0x8AB4 = some (.add 0xA 0xB) ∧
    decode 0x8AB5 = some (.sub 0xA 0xB) ∧ decode 0x8AB6 = some (.shr 0xA 0xB) ∧ decode 0x8AB7 = some (.subn 0xA 0xB) ∧
    decode 0x8ABE = some (.shl 0xA 0xB) := by decide
theorem test_decode_display : decode 0xD125 = some (.draw 1 2 5) := by decide
theorem test_decode_keys : decode 0xE39E = some (.skp 3) ∧ decode 0xE3A1 = some (.sknp 3) ∧
    decode 0xF20A = some (.waitk 2) := by decide
theorem test_decode_classF : decode 0xF207 = some (.getdt 2) ∧ decode 0xF215 = some (.setdt 2) ∧
    decode 0xF218 = some (.setst 2) ∧ decode 0xF21E = some (.iadd 2) ∧ decode 0xF229 = some (.font 2) ∧
    decode 0xF233 = some (.bcd 2) ∧ decode 0xF255 = some (.stm 2) ∧ decode 0xF265 = some (.ldm 2) := by decide
theorem test_decode_unrecognized : [0x0000, 0x00E1, 0x0123, 0x8AB8, 0x8ABD, 0x8ABF, 0xE39F, 0xE3A0, 0xE300, 0xF200, 0xF275,
    0xF285, 0xF230, 0xF2FF].all (fun w => decode w == none) = true := by decide
theorem test_decode_fields : decodeWord 0xD125 =
    { word := 0xD125, u := 0xD, x := 1, y := 2, n := 5, kk := 0x25, nnn := 0x125, tag := .draw } := by decide
theorem test_decode_ordinals : (classify 0x8ABE).ordinal = 17 ∧ (classify 0xF265).ordinal = 33 ∧
    (classify 0x0000).ordinal = 34 := by decide
theorem test_decodeBytes_big_endian : (decodeBytes [0x12, 0x34, 0x99]).toOption = some (.jmp 0x234, [0x99]) := by decide
theorem test_decodeTableWord : decodeTableWord 16 0x8AB4 = some (.add 0xA 0xB) ∧ decodeTableWord 16 0x8AB8 = none := by decide

/-! ### Control flow (section 2.2) -/

theorem test_jmp : afterWord 0x1204 (State.reset.setPc 0x20A) (·.pc) = some 0x204 := by decide
theorem test_call : afterWord 0x220A (State.reset.setPc 0x204) (fun t => (t.sp, t.stack[1], t.pc)) =
    some (1, 0x206, 0x20A) := by decide
theorem test_call_full : afterWord 0x2400 { State.reset with sp := 15, pc := 0x300 }
    (fun t => (t.halted, t.haltCause, t.haltInfo, t.sp, t.pc)) = some (true, 2, 0x300, 15, 0x300) := by decide
theorem test_ret : afterWord 0x00EE ((State.reset.pushReturn 0x206).setPc 0x20C) (fun t => (t.pc, t.sp, t.stack[1])) =
    some (0x206, 0, 0x206) := by decide
theorem test_ret_empty : afterWord 0x00EE State.reset (fun t => (t.halted, t.haltCause, t.haltInfo, t.sp, t.pc)) =
    some (true, 3, 0x200, 0, 0x200) := by decide
theorem test_jmpv : afterWord 0xB300 (with2 0 0x04 3 0x50) (·.pc) = some 0x304 := by decide
theorem test_jmpv_not_reduced : afterWord 0xBFFF (State.reset.setV 0 0xFF) (·.pc) = some 0x10FE := by decide
theorem test_skei : afterWord 0x3100 (State.reset.setPc 0x208) (·.pc) = some 0x20C ∧
    afterWord 0x3100 ((State.reset.setV 1 1).setPc 0x208) (·.pc) = some 0x20A := by decide
theorem test_sknei : afterWord 0x4207 (State.reset.setV 2 7) (·.pc) = some 0x202 ∧
    afterWord 0x4208 (State.reset.setV 2 7) (·.pc) = some 0x204 := by decide
theorem test_ske : afterWord 0x534F (with2 3 9 4 9) (·.pc) = some 0x204 ∧
    afterWord 0x5340 (with2 3 9 4 8) (·.pc) = some 0x202 := by decide
theorem test_skne : afterWord 0x9340 (with2 3 9 4 8) (·.pc) = some 0x204 ∧
    afterWord 0x9330 (State.reset.setV 3 9) (·.pc) = some 0x202 := by decide
theorem test_unrecognized : execWord 0x8AB8 State.reset = .next { State.reset with pc := 0x202 } := by rfl

/-! ### Arithmetic, logic, shifts, random (section 2.3) -/

theorem test_movi : afterWord 0x6FAB (State.reset.setV 15 1) (fun t => (t.getV 15, t.pc)) = some (0xAB, 0x202) := by decide
theorem test_addi : afterWord 0x7101 (with2 1 0xFF 15 0) (fun t => (t.getV 1, t.getV 15)) = some (0, 0) := by decide
theorem test_mov : afterWord 0x8EF0 (State.reset.setV 15 1) (fun t => (t.getV 14, t.getV 15)) = some (1, 1) := by decide
theorem test_or : afterWord 0x8121 ((with2 1 0xF0 2 0x0F).setV 15 7) (fun t => (t.getV 1, t.getV 15)) = some (0xFF, 7) := by
  decide
theorem test_and : afterWord 0x8122 ((with2 1 0xF0 2 0x3C).setV 15 7) (fun t => (t.getV 1, t.getV 15)) = some (0x30, 7) := by
  decide
theorem test_xor : afterWord 0x8123 ((with2 1 0xF0 2 0x3C).setV 15 7) (fun t => (t.getV 1, t.getV 15)) = some (0xCC, 7) := by
  decide
theorem test_add : afterWord 0x8014 ((with2 0 0x7F 1 0x80).setV 15 1) (fun t => (t.getV 0, t.getV 15)) = some (0xFF, 0) := by
  decide
theorem test_add_flag_last : afterWord 0x8F14 (with2 15 0xF0 1 0x20) (·.getV 15) = some 1 := by decide
theorem test_sub : afterWord 0x8015 ((with2 0 0x10 1 0x10).setV 15 1) (fun t => (t.getV 0, t.getV 15)) = some (0, 0) := by
  decide
theorem test_sub_reads_old_flag : afterWord 0x81F5 (with2 1 9 15 3) (fun t => (t.getV 1, t.getV 15)) = some (6, 1) := by
  decide
theorem test_subn : afterWord 0x8017 ((with2 0 0x20 1 0x10).setV 15 1) (fun t => (t.getV 0, t.getV 15)) =
    some (0xF0, 0) := by decide
theorem test_shr : afterWord 0x83A6 ((with2 3 0x04 10 0xFF).setV 15 1)
    (fun t => (t.getV 3, t.getV 10, t.getV 15)) = some (2, 0xFF, 0) := by decide
theorem test_shr_flag_register : afterWord 0x8F06 (State.reset.setV 15 3) (·.getV 15) = some 1 := by decide
theorem test_shl : afterWord 0x83AE (with2 3 0x41 10 0xFF) (fun t => (t.getV 3, t.getV 10, t.getV 15)) =
    some (0x82, 0xFF, 0) := by decide
theorem test_shl_flag_register : afterWord 0x8F0E (State.reset.setV 15 0x81) (·.getV 15) = some 1 := by decide
theorem test_rnd : afterWord 0xC10F (sampleInputs 0 0xA7 State.reset) (·.getV 1) = some 0x07 := by decide

/-! ### Index register and memory (section 2.4) -/

theorem test_seti : afterWord 0xAFFF State.reset (·.i) = some 0xFFF := by decide
theorem test_iadd : afterWord 0xF21E ((State.reset.setI 0xFFF0).setV 2 0xFF) (·.i) = some 0x00EF := by decide
theorem test_font : afterWord 0xF029 (State.reset.setV 0 0xFF) (·.i) = some 0x04FB := by decide
theorem test_bcd : afterWord 0xF033 ((State.reset.setV 0 234).setI 0x300) (fun t => (t.readBytes 0x300 3, t.i)) =
    some ([2, 3, 4], 0x300) := by decide
theorem test_bcd_out_of_range : afterWord 0xF033 ((State.reset.setV 0 0xFF).setI 0xFFE)
    (fun t => (t.halted, t.haltCause, t.haltInfo, t.pc, t.mem.isEmpty)) = some (true, 4, 0xFFE, 0x200, true) := by decide
theorem test_stm : afterWord 0xF255 ((with2 0 1 1 2).setI 0x400) (fun t => (t.readBytes 0x400 4, t.i)) =
    some ([1, 2, 0, 0], 0x400) := by decide
theorem test_ldm : afterWord 0xF265 ((((State.reset.writeBytes 0x300 [2, 3, 4, 5]).setV 3 9)).setI 0x300)
    (fun t => (t.getV 0, t.getV 1, t.getV 2, t.getV 3)) = some (2, 3, 4, 9) := by decide

/-! ### Display (section 2.5) -/

theorem test_clear : afterWord 0x00E0 { State.reset with fb := Vector.replicate 32 7 } (fun t => (t.fb[31], t.redrawPending)) =
    some (0, true) := by decide
theorem test_draw_wraps : afterWord 0xD121 (((with2 1 62 2 31).setI 0x210).writeByte 0x210 0xFF)
    (fun t => (t.fb[31], t.fb[0], t.getV 15, t.redrawPending)) = some (0xC00000000000003F, 0, 0, true) := by decide
theorem test_draw_column_seven : afterWord 0xD121 (((with2 1 63 2 0).setI 0x300).writeByte 0x300 0x01)
    (fun t => (t.fb[0], t.fb[1])) = some (BitVec.twoPow 64 6, 0) := by decide

/-! ### Keys and timers (section 2.6) -/

theorem test_skp : afterWord 0xE39E { State.reset.setV 3 5 with keys := (State.reset.keys).set 5 true } (·.pc) = some 0x204 ∧
    afterWord 0xE39E { State.reset.setV 3 0x10 with keys := Vector.replicate 16 true } (·.pc) = some 0x202 := by decide
theorem test_sknp : afterWord 0xE3A1 { State.reset.setV 3 0x20 with keys := Vector.replicate 16 true } (·.pc) = some 0x204 ∧
    afterWord 0xE3A1 { State.reset.setV 3 15 with keys := Vector.replicate 16 true } (·.pc) = some 0x202 := by decide
theorem test_waitk : afterWord 0xF10A { State.reset with keys := (State.reset.keys.set 5 true).set 9 true }
    (fun t => (t.getV 1, t.pc)) = some (5, 0x202) := by decide
theorem test_waitk_none : execWord 0xF10A State.reset = .next State.reset := by rfl
theorem test_getdt : afterWord 0xF207 (State.reset.setDT 0x3B) (·.getV 2) = some 0x3B := by decide
theorem test_setdt : afterWord 0xF215 (State.reset.setV 2 0x3C) (fun t => (t.dt, t.st)) = some (0x3C, 0) := by decide
theorem test_setst : afterWord 0xF218 (State.reset.setV 2 1) (fun t => (t.st, t.dt, t.beep)) = some (1, 0, false) := by decide
theorem test_timer_tick : (timerChecks (State.reset.setDT 5) [2000, 3000]).dt = 5 ∧
    (timerChecks (State.reset.setDT 5) [2000, 3000, 11666]).dt = 4 ∧
    (timerChecks (State.reset.setDT 5) [2000, 3000, 11666]).lastTick = 16666 := by decide
theorem test_due_checks : dueChecks 16666 0 0 [2000, 3000] = 0 ∧ dueChecks 16666 0 0 [2000, 3000, 11666] = 1 ∧
    dueChecks 16666 0 0 [50000, 0, 0] = 1 := by decide
theorem test_timer_beep : (startCycle 16666 0 (State.reset.setST 1)).beep = true ∧
    (startCycle 16666 0 (State.reset.setST 2)).beep = false ∧ (startCycle 16666 0 State.reset).beep = false := by decide

/-! ### The step -/

theorem test_step_runs_the_placed_word : (nextOf (step (State.reset.withFetchWord 16 0x6142))).map (fun t => (t.getV 1, t.pc)) =
    some (0x42, 0x202) := by decide
theorem test_step_font : State.reset.readBytes 0x32 6 = [0xF0, 0x90, 0xF0, 0x90, 0x90, 0xE0] := by decide
theorem test_writing_the_reset_byte_delists : ((State.reset.writeByte 0x300 7).writeByte 0x300 0).mem = [] ∧
    (State.reset.writeByte 0 0xF0).mem = [] ∧ (State.reset.writeByte 0 0).mem = [(0, 0)] := by decide

/-! ### Witnesses: encoding -/

/-- EncodeOfDecodeIsIdentity. -/
theorem witness_EncodeOfDecode : decode 0x0AE0 = some (.clear 0xA) := by decide
/-- OpcodeTableSelectsExactlyTheTag: a row, a word that selects it and one that does not. -/
theorem witness_OpcodeTable : (⟨.sub, 0x8005, 0xF00F⟩ : Row) ∈ opcodeTable ∧ (0x8AB5 : Word) &&& 0xF00F = 0x8005 ∧
    (0x8AB4 : Word) &&& 0xF00F ≠ 0x8005 := by decide
/-- IgnoredNibblesDoNotMatter: each clause. -/
theorem witness_IgnoredNibbles :
    ((0x0AE0 : Word) &&& 0xF0FF = 0x0FE0 &&& 0xF0FF ∧ classify 0x0AE0 ∈ [Tag.clear, Tag.ret]) ∧
    ((0x5AB7 : Word) &&& 0xFFF0 = 0x5AB0 &&& 0xFFF0 ∧ classify 0x5AB7 ∈ [Tag.ske, Tag.skne]) ∧
    ((0x83A6 : Word) &&& 0xFF0F = 0x83F6 &&& 0xFF0F ∧ classify 0x83A6 ∈ [Tag.shr, Tag.shl]) := by decide
/-- RowDecodes, in the statements of the instructions: words of rows of every mask. -/
theorem witness_RowDecodes : (0x6FAB : Word) &&& 0xF000 = 0x6000 ∧ (0x8EF0 : Word) &&& 0xF00F = 0x8000 ∧
    (0xFF65 : Word) &&& 0xF0FF = 0xF065 ∧ (0x0FEE : Word) &&& 0xF0FF = 0x00EE := by decide

/-! ### Witnesses: the step, the host and reset -/

/-- StepRunsTheDecodedInstruction and StepOfARunningCoreIsOneCycle, an announced cycle, `pc` at its upper end. -/
theorem witness_StepRuns_announced :
    State.Running (((withMoves [.run 5 0xA7]).writeBytes 0xFFE [0x12, 0x34]).setPc 0xFFE) ∧
    decode (((withMoves [.run 5 0xA7]).writeBytes 0xFFE [0x12, 0x34]).setPc 0xFFE).fetchWord = some (.jmp 0x234) ∧
    (((withMoves [.run 5 0xA7]).writeBytes 0xFFE [0x12, 0x34]).setPc 0xFFE).world.script = [.run 5 0xA7] :=
  ⟨⟨rfl, rfl⟩, by decide, rfl⟩
/-- The same on free inputs, `pc` at its lower end. -/
theorem witness_StepRuns_free : State.Running (State.reset.writeBytes 0x200 [0x12, 0x34]) ∧
    decode (State.reset.writeBytes 0x200 [0x12, 0x34]).fetchWord = some (.jmp 0x234) ∧
    (State.reset.writeBytes 0x200 [0x12, 0x34]).pc.toNat = 0x200 ∧ State.reset.world.script = [] :=
  ⟨⟨rfl, rfl⟩, by decide, by decide, rfl⟩
/-- UnrecognizedOnlyAdvancesPc. -/
theorem witness_Unrecognized : ∀ r ∈ opcodeTable, (0x8ABF : Word) &&& r.mask ≠ r.pattern := by decide
/-- FetchIsBigEndian: both ends of the range. -/
theorem witness_Fetch : 0x200 ≤ State.reset.pc.toNat ∧ State.reset.pc.toNat ≤ 0xFFE ∧
    (State.reset.setPc 0xFFE).pc.toNat ≤ 0xFFE := by decide
/-- FetchOutOfRangeHalts: just outside both ends. -/
theorem witness_FetchOutOfRange : (State.reset.setPc 0x1FF).pc.toNat < 0x200 ∧ 0xFFE < (State.reset.setPc 0xFFF).pc.toNat := by
  decide
/-- HaltedCoreChangesOnlyByReset: no move, a move that is no reset, a reset. -/
theorem witness_Halted : halted.halted = true ∧ halted.world.quit = false ∧ halted.world.script = [] ∧
    (halted.withScript [.present]).world.script = [.present] ∧ HostMove.present ≠ .reset ∧
    (halted.withScript [.reset]).world.script = [.reset] := by decide
/-- HostSetsKeysAndTakesFrames and QuitEndsTheRun, first clauses. -/
theorem witness_HostMoves : State.Running (withMoves [.keys State.reset.keys, .present, .quit]) ∧
    State.Running (withMoves [.present]) ∧ State.Running (withMoves [.quit]) :=
  ⟨⟨rfl, rfl⟩, ⟨rfl, rfl⟩, ⟨rfl, rfl⟩⟩
/-- QuitEndsTheRun, second clause. -/
theorem witness_Quit : (hostQuit State.reset).world.quit = true ∧
    ∀ rest, (hostQuit State.reset).world.script ≠ .reset :: rest := ⟨rfl, fun _ h => by cases h⟩
/-- LoadPlacesTheRomImage and IllegalLoadsAreRefused: the largest image, one byte more, and a load too late. -/
theorem witness_Load : State.Running (withMoves [.load (List.replicate 3584 1)]) ∧
    (withMoves [.load (List.replicate 3584 1)]).world.started = false ∧ (List.replicate 3584 (1 : Byte)).length ≤ 3584 ∧
    3584 < (List.replicate 3585 (1 : Byte)).length ∧
    (sampleInputs 0 0 (withMoves [.load [1]])).world.started = true :=
  ⟨⟨rfl, rfl⟩, rfl, List.length_replicate.le, by rw [List.length_replicate]; decide, rfl⟩
/-- LoadPlacesTheRomImage: a state at reset with a load to come, for the bytes behind the image. -/
theorem witness_Load_at_reset : AtReset (withMoves [.load []]) (withMoves [.load []]).lastTick where
  regs := by decide
  index := rfl
  pc := rfl
  timers := by decide
  stack := by decide
  sp := rfl
  font := by decide
  zero := fun a h => by
    simp [withMoves, State.readByte, Memory.read, State.reset, Memory.lookup, Memory.resetByte, show ¬a < 80 by omega]
  frame := by decide
  keys := by decide
  redraw := rfl
  latches := by decide
  tick := rfl
/-- Two loads before the first cycle: the later over the earlier (the model's choice, log 28). -/
theorem test_second_load_is_laid_over_the_first :
    (hostLoad [9] (hostLoad [1, 2, 3] State.reset)).readBytes 0x200 3 = [9, 2, 3] := by decide
/-- HostResetGivesResetValues: from a halted state whose run has ended. -/
theorem witness_HostReset : ((hostQuit halted).withScript [.reset, .run 1 2]).world.script = .reset :: [.run 1 2] := by
  decide

/-! ### Witnesses: invariants and whole-machine rules -/

/-- A state other than reset that meets the invariant: it has pushed a return address and halted. -/
theorem witness_Inv_halted : Inv (startCycle 7 0 ((State.reset.pushReturn 0x206).raise .memOutOfRange 0xFFF)) :=
  ⟨by decide, by decide, by decide, by decide, by decide, by decide⟩
/-- StepKeepsInvariant, ParametersStayAndTimeNeverRunsBack: a running state of the invariant and its next state. -/
theorem witness_Inv_step : Inv ((withMoves [.run 3 9]).setPc 0x300) ∧ ∃ t, step ((withMoves [.run 3 9]).setPc 0x300) = .next t :=
  ⟨⟨by decide, by decide, by decide, by decide, by decide, by decide⟩, _, rfl⟩
/-- EveryStepAnswersNext: a legal load to come, and no move to come. -/
theorem witness_NextMoveLegal : State.NextMoveLegal (withMoves [.load [1, 2]]) ∧ State.NextMoveLegal State.reset ∧
    State.reset.world.quit = false :=
  ⟨fun image rest h => by cases h; decide, fun image rest h => (List.cons_ne_nil _ _ h.symm).elim, rfl⟩
/-- NextPcFollowsTheContract, OnlyNamedRegistersAreWritten, InstructionsHaltExactlyAsListed: an instruction that does not halt
and writes one register, and instructions that halt. -/
theorem witness_exec_next : (∃ t, exec (.movi 3 7) State.reset = .next t) ∧ haltOf (.movi 3 7) State.reset = none ∧
    ¬MayWrite (.movi 3 7) 4 := ⟨⟨_, rfl⟩, rfl, by simp [MayWrite]⟩
theorem witness_exec_halts : (∃ t, exec (.ret 0) State.reset = .next t) ∧ haltOf (.ret 0) State.reset = some (3, 0x200) ∧
    haltOf (.draw 1 2 15) (State.reset.setI 0xFF2) = some (4, 0xFF2) ∧
    haltOf (.draw 1 2 15) (State.reset.setI 0xFF1) = none ∧ haltOf (.draw 1 2 0) (State.reset.setI 0xFFFF) = none :=
  ⟨⟨_, rfl⟩, by decide, by decide, by decide, by decide⟩
theorem witness_call_next : (∃ t, exec (.call 0x400) State.reset = .next t) ∧ haltOf (.call 0x400) State.reset = none :=
  ⟨⟨_, rfl⟩, by decide⟩
/-- EveryOtherStateIsLeftAlone: every clause, and a byte beside the stored ones. -/
theorem witness_EveryOther : (∃ t, exec (.stm 2) (State.reset.setI 0x400) = .next t) ∧
    (Instr.stm 2).tag ∉ [Tag.seti, Tag.iadd, Tag.font] ∧ (Instr.stm 2).tag ≠ Tag.setdt ∧ (Instr.stm 2).tag ≠ Tag.setst ∧
    (Instr.stm 2).tag ≠ Tag.call ∧ (Instr.stm 2).tag ∉ [Tag.call, Tag.ret] ∧ (Instr.stm 2).tag ∉ [Tag.clear, Tag.draw] ∧
    ¬MayStore (.stm 2) (State.reset.setI 0x400) 0x403 ∧ ¬MayStore (.stm 2) (State.reset.setI 0x400) 0x3FF ∧
    haltOf (.stm 2) (State.reset.setI 0x400) = none :=
  ⟨⟨_, rfl⟩, by decide, by decide, by decide, by decide, by decide, by decide, by simp [MayStore, State.effAddr],
    by simp [MayStore, State.effAddr], by decide⟩
/-- HiddenStateCannotBeRead: the random instruction and another. -/
theorem witness_HiddenState : (Instr.rnd 1 0x0F).tag = Tag.rnd ∧ (Instr.getdt 1).tag ≠ Tag.rnd ∧
    (∃ t, exec (.rnd 1 0x0F) State.reset = .next t) ∧ (∃ t, exec (.getdt 1) State.reset = .next t) :=
  ⟨rfl, by decide, ⟨_, rfl⟩, ⟨_, rfl⟩⟩

/-! ### Witnesses: instructions -/

/-- AddWritesSumThenCarry, SubAndSubnWriteDifferenceThenNotBorrow, ShiftsWriteResultThenBitShiftedOut. -/
theorem witness_not_flag_register : (14 : Nibble) ≠ 15 := by decide
/-- CallPushesAndJumps, CallThenRetReturnsBehindTheCall: the last free entry, and a full stack. -/
theorem witness_Call : ({ State.reset with sp := 14 } : State).sp ≠ 15 ∧ ({ State.reset with sp := 15 } : State).sp = 15 := by
  decide
/-- RetPopsTheReturnAddress: one entry, and none. -/
theorem witness_Ret : (State.reset.pushReturn 0x206).sp ≠ 0 ∧ State.reset.sp = 0 := by decide
/-- BcdStoresThreeDigits: the last range that exists, the first that does not. -/
theorem witness_Bcd : (State.reset.setI 0xFFD).i.toNat + 2 ≤ 4095 ∧ 4095 < (State.reset.setI 0xFFE).i.toNat + 2 := by decide
/-- StmStoresTheRegisterBlock, LdmLoadsTheRegisterBlock, LdmReadsBackWhatStmStored: the same for `x = 15` and `x = 0`. -/
theorem witness_Block : (State.reset.setI 0xFF0).i.toNat + (15 : Nibble).toNat ≤ 4095 ∧
    4095 < (State.reset.setI 0xFF1).i.toNat + (15 : Nibble).toNat ∧
    (State.reset.setI 0xFFF).i.toNat + (0 : Nibble).toNat ≤ 4095 ∧
    4095 < (State.reset.setI 0x1000).i.toNat + (0 : Nibble).toNat := by decide
/-- StoresAreSeenByTheNextFetch: both clauses. -/
theorem witness_StoresAreSeen : (14 : Nibble).toNat < (15 : Nibble).toNat ∧
    (0xFFE : Word).toNat = (State.reset.setI 0xFF0).effAddr (14 : Nibble).toNat ∧
    (0xFFE : Word).toNat = (State.reset.setI 0xFFD).effAddr 1 := by decide
/-- WrittenByteIsReadBack: the last address. -/
theorem witness_Written : (4095 : Nat) ≤ 4095 ∧ (0 : Nat) ≠ 4095 := by decide
/-- EqualContentsAreEqualMemories: a memory with listed bytes at both ends of a program. -/
theorem witness_EqualContents : Memory.wf Config.Params.default [(0x200, 1), (0xFFF, 2)] = true ∧
    Memory.wf Config.Params.default [(0xFFF, 2), (0x200, 1)] = false := by decide
/-- DrawXorsTheSpriteAndReportsCollision: no row at any `I`, the last range that exists, the first that does not. -/
theorem witness_Draw : ((0 : Nibble) = 0 ∧ 4095 < (State.reset.setI 0xFFFF).i.toNat) ∧
    (State.reset.setI 0xFF1).i.toNat + (15 : Nibble).toNat - 1 ≤ 4095 ∧
    ((15 : Nibble) ≠ 0 ∧ 4095 < (State.reset.setI 0xFF2).i.toNat + (15 : Nibble).toNat - 1) := by decide
/-- DrawingTwiceRestoresTheFrame: a sprite at the far corner, the coordinates in registers the draw leaves alone. -/
theorem witness_DrawTwice : (nextOf (exec (.draw 1 2 1) (((with2 1 62 2 31).setI 0x210).writeByte 0x210 0xFF))).map
    (fun t => (t.getV 1, t.getV 2)) = some (62, 31) := by decide
/-- KeySkipsTestTheWholeByte: the last key, down; the first index that is no key. -/
theorem witness_KeyIsDown : KeyIsDown { State.reset with keys := State.reset.keys.set 15 true } 15 ∧
    ¬KeyIsDown { State.reset with keys := Vector.replicate 16 true } 16 :=
  ⟨⟨by decide, by decide⟩, fun h => absurd h.1 (by decide)⟩
/-- WaitkTakesTheLowestKeyOrStays: no key, and the last key alone. -/
theorem witness_Waitk : (∀ k : Fin 16, State.reset.keys[k] = false) ∧
    (State.reset.keys.set 15 true)[(15 : Fin 16)] = true ∧
    (∀ j : Fin 16, j < 15 → (State.reset.keys.set 15 true)[j] = false) := by decide
/-- TimerCheckCountsDownOncePerDueTick: exactly one period, and one microsecond less. -/
theorem witness_TickFallsDue : TickFallsDue 16666 State.reset ∧ ¬TickFallsDue 16665 State.reset := by
  unfold TickFallsDue
  decide
/-- TimersOnlyCountDownByThemselves: a cycle of a word that is neither `SETDT` nor `SETST`. -/
theorem witness_TimersOnlyCountDown : (∃ t, cycle 16666 0 (State.reset.setDT 5) = .next t) ∧
    decode (State.reset.setDT 5).fetchWord = none := ⟨⟨_, rfl⟩, by decide⟩

end Sys2Proof.Tests
end

section
/-! SUPPORT. The six fields of a word as numbers: the slices of spec/00_scope.md rule R8, and how they overlap. -/

namespace Sys2Proof

/-! ### Fields as slices (R8) -/

/-- A slice as a number: drop the `start` bits below it, then keep `len` bits. -/
theorem toNat_extractLsb'_eq_div_mod (w : Word) (start len : Nat) :
    (w.extractLsb' start len).toNat = w.toNat / 2 ^ start % 2 ^ len := by
  rw [BitVec.extractLsb'_toNat, Nat.shiftRight_eq_div_pow]

/-- A slice that starts at bit 0 has nothing below it to drop. -/
theorem toNat_extractLsb'_zero_eq_mod (w : Word) (len : Nat) :
    (w.extractLsb' 0 len).toNat = w.toNat % 2 ^ len := by
  rw [toNat_extractLsb'_eq_div_mod, Nat.pow_zero, Nat.div_one]

/-- `u` is the topmost slice, so there is nothing above it to drop. -/
theorem toNat_fieldU (w : Word) : (fieldU w).toNat = w.toNat / 4096 := by
  have hslice : (fieldU w).toNat = w.toNat / 4096 % 16 := toNat_extractLsb'_eq_div_mod w 12 4
  have htop : w.toNat / 4096 < 16 := Nat.div_lt_of_lt_mul w.isLt
  rw [hslice, Nat.mod_eq_of_lt htop]

theorem toNat_fieldX (w : Word) : (fieldX w).toNat = w.toNat / 256 % 16 :=
  toNat_extractLsb'_eq_div_mod w 8 4

theorem toNat_fieldY (w : Word) : (fieldY w).toNat = w.toNat / 16 % 16 :=
  toNat_extractLsb'_eq_div_mod w 4 4

theorem toNat_fieldN (w : Word) : (fieldN w).toNat = w.toNat % 16 :=
  toNat_extractLsb'_zero_eq_mod w 4

theorem toNat_fieldKK (w : Word) : (fieldKK w).toNat = w.toNat % 256 :=
  toNat_extractLsb'_zero_eq_mod w 8

theorem toNat_fieldNNN (w : Word) : (fieldNNN w).toNat = w.toNat % 4096 :=
  toNat_extractLsb'_zero_eq_mod w 12

/-! ### Overlaps (R8) -/

/-- The low byte is the nibble `y` above the nibble `n`. -/
theorem toNat_fieldKK_eq_fieldY_fieldN (w : Word) :
    (fieldKK w).toNat = (fieldY w).toNat * 16 + (fieldN w).toNat := by
  rw [toNat_fieldKK, toNat_fieldY, toNat_fieldN]
  omega

/-- The address field is the nibble `x` above the byte `kk`. -/
theorem toNat_fieldNNN_eq_fieldX_fieldKK (w : Word) :
    (fieldNNN w).toNat = (fieldX w).toNat * 256 + (fieldKK w).toNat := by
  rw [toNat_fieldNNN, toNat_fieldX, toNat_fieldKK]
  omega

/-- Settles O5: each field is a quotient and remainder of the word, and the overlaps follow by arithmetic; the record is
`decodeWord`'s own definition (R122). -/
theorem fieldsAreSlicesAndOverlap : Obligations.FieldsAreSlicesAndOverlap := by
  intro w
  exact ⟨toNat_fieldU w, toNat_fieldX w, toNat_fieldY w, toNat_fieldN w, toNat_fieldKK w, toNat_fieldNNN w,
    toNat_fieldKK_eq_fieldY_fieldN w, toNat_fieldNNN_eq_fieldX_fieldKK w, rfl⟩

end Sys2Proof
end

section
/-! SUPPORT. The row of the opcode table that a recognised word selects: the tag the decoder gives a word is the tag of a row
whose mask leaves that row's pattern of the word (spec/30_encoding.md rules R94, R96). -/

namespace Sys2Proof

/-! ### What a row's mask leaves of a word (R96) -/

/-- A mask of `0xF000` leaves the class nibble. -/
theorem and_F000_eq_wordA (w : Word) : w &&& 0xF000 = wordA (fieldU w) 0 := by
  apply BitVec.eq_of_getLsbD_eq
  intro i hi
  interval_cases i <;> simp [wordA, fieldU]

/-- A mask of `0xF00F` leaves the class nibble and the sub-opcode `n`. -/
theorem and_F00F_eq_wordXYN (w : Word) : w &&& 0xF00F = wordXYN (fieldU w) 0 0 (fieldN w) := by
  apply BitVec.eq_of_getLsbD_eq
  intro i hi
  interval_cases i <;> simp [wordXYN, fieldU, fieldN]

/-- A mask of `0xF0FF` leaves the class nibble and the sub-opcode `kk`. -/
theorem and_F0FF_eq_wordXK (w : Word) : w &&& 0xF0FF = wordXK (fieldU w) 0 (fieldKK w) := by
  apply BitVec.eq_of_getLsbD_eq
  intro i hi
  interval_cases i <;> simp [wordXK, fieldU, fieldKK]

/-! ### The tags of the four polymorphic classes are in the table (R94, R96) -/

theorem classify0_row_mem {kk : Byte} (h : classify0 kk ≠ .unrecognized) :
    ⟨classify0 kk, wordXK 0x0 0 kk, 0xF0FF⟩ ∈ opcodeTable := by
  unfold classify0 at h ⊢
  split at h
  case h_3 => exact absurd rfl h
  all_goals decide

theorem classify8_row_mem {n : Nibble} (h : classify8 n ≠ .unrecognized) :
    ⟨classify8 n, wordXYN 0x8 0 0 n, 0xF00F⟩ ∈ opcodeTable := by
  unfold classify8 at h ⊢
  split at h
  case h_10 => exact absurd rfl h
  all_goals decide

theorem classifyE_row_mem {kk : Byte} (h : classifyE kk ≠ .unrecognized) :
    ⟨classifyE kk, wordXK 0xE 0 kk, 0xF0FF⟩ ∈ opcodeTable := by
  unfold classifyE at h ⊢
  split at h
  case h_3 => exact absurd rfl h
  all_goals decide

theorem classifyF_row_mem {kk : Byte} (h : classifyF kk ≠ .unrecognized) :
    ⟨classifyF kk, wordXK 0xF 0 kk, 0xF0FF⟩ ∈ opcodeTable := by
  unfold classifyF at h ⊢
  split at h
  case h_10 => exact absurd rfl h
  all_goals decide

/-! ### Every recognised word selects a row -/

/-- The table has the row of a recognised word: its tag, what some mask leaves of the word, and that mask. -/
theorem exists_mask_row_mem {w : Word} (h : classify w ≠ .unrecognized) :
    ∃ mask, ⟨classify w, w &&& mask, mask⟩ ∈ opcodeTable := by
  unfold classify at h ⊢
  split at h
  case h_1 hu => exact ⟨0xF0FF, by rw [and_F0FF_eq_wordXK, hu]; exact classify0_row_mem h⟩
  case h_9 hu => exact ⟨0xF00F, by rw [and_F00F_eq_wordXYN, hu]; exact classify8_row_mem h⟩
  case h_15 hu => exact ⟨0xF0FF, by rw [and_F0FF_eq_wordXK, hu]; exact classifyE_row_mem h⟩
  case h_16 =>
    have hu : fieldU w = 0xF := by
      simp only [imp_false] at *
      bv_omega
    exact ⟨0xF0FF, by rw [and_F0FF_eq_wordXK, hu]; exact classifyF_row_mem h⟩
  all_goals exact ⟨0xF000, by rw [and_F000_eq_wordA, ‹fieldU w = _›]; decide⟩

/-! ### A word that selects no row (R98, R125) -/

/-- Of the tags only UNRECOGNIZED stands for no instruction. -/
theorem toInstr_eq_none_iff (d : Instruction) : d.toInstr = none ↔ d.tag = .unrecognized := by
  unfold Instruction.toInstr
  split <;> simp [*]

theorem decode_eq_none_iff (w : Word) : decode w = none ↔ classify w = .unrecognized :=
  toInstr_eq_none_iff (decodeWord w)

theorem decode_eq_none_of_no_row {w : Word} (h : ∀ r ∈ opcodeTable, w &&& r.mask ≠ r.pattern) : decode w = none := by
  by_contra hsome
  have hc : classify w ≠ .unrecognized := mt (decode_eq_none_iff w).2 hsome
  obtain ⟨mask, hrow⟩ := exists_mask_row_mem hc
  exact h _ hrow rfl

/-- A word with no instruction only advances `pc` (R125). -/
theorem execWord_of_decode_eq_none {w : Word} (h : decode w = none) (s : Machine.State) :
    Machine.execWord w s = .next s.advance := by
  rw [Machine.execWord, h, Machine.execUnrecognized]

/-- Settles O10: a word outside the table decodes to no instruction, so it runs the executor that only advances `pc`. -/
theorem unrecognizedOnlyAdvancesPc : Obligations.UnrecognizedOnlyAdvancesPc := by
  intro w s hrow
  exact execWord_of_decode_eq_none (decode_eq_none_of_no_row hrow) s

end Sys2Proof
end

section
/-! SUPPORT. The rows of the opcode table as the decoder reads them: the tag of every word that selects a row is that row's
(spec/30_encoding.md rules R94, R96). -/

namespace Sys2Proof

/-- Class and low byte of a word fix its tag, as the low byte holds `n` too (R94). -/
theorem classify_eq_of_fieldU_fieldKK {w p : Word} (hu : fieldU w = fieldU p) (hk : fieldKK w = fieldKK p) :
    classify w = classify p := by
  have hn : fieldN w = fieldN p := by
    have hw := toNat_fieldKK_eq_fieldY_fieldN w
    have hp := toNat_fieldKK_eq_fieldY_fieldN p
    rw [hk] at hw
    bv_omega
  simp only [classify, hu, hk, hn]

/-- In class 0x8 the nibble `n` alone fixes the tag (R94). -/
theorem classify_eq_classify8 {w : Word} (hu : fieldU w = 0x8) : classify w = classify8 (fieldN w) := by
  simp [classify, hu]

/-- The classes in which a second field selects the instruction (R94). -/
def polymorphicClasses : List Nibble := [0x0, 0x8, 0xE, 0xF]

/-- Outside the polymorphic classes the class nibble alone fixes the tag (R94). -/
theorem classify_eq_of_fieldU {w p : Word} (hu : fieldU w = fieldU p) (hp : fieldU p ∉ polymorphicClasses) :
    classify w = classify p := by
  simp only [classify, hu]
  split
  case h_1 h | h_9 h | h_15 h => exact absurd (by rw [h]; decide) hp
  case h_16 =>
    have h : fieldU p = 0xF := by
      simp only [imp_false] at *
      bv_omega
    exact absurd (by rw [h]; decide) hp
  all_goals rfl

/-- A row's pattern has the row's tag, and the row's mask covers every field that its class is keyed by (R94, R96). -/
theorem opcodeTable_row {r : Row} (hr : r ∈ opcodeTable) : classify r.pattern = r.tag ∧
    (r.mask = 0xF000 ∧ fieldU r.pattern ∉ polymorphicClasses ∨ r.mask = 0xF00F ∧ fieldU r.pattern = 0x8 ∨
      r.mask = 0xF0FF) := by
  revert r
  decide

/-- A word that selects a row has that row's tag (R96). -/
theorem classify_of_row {r : Row} (hr : r ∈ opcodeTable) {w : Word} (hw : w &&& r.mask = r.pattern) :
    classify w = r.tag := by
  obtain ⟨htag, ⟨hm, hp⟩ | ⟨hm, hp⟩ | hm⟩ := opcodeTable_row hr <;> rw [hm] at hw <;> rw [← htag]
  · exact classify_eq_of_fieldU (fieldU_of_mask_F000 hw) hp
  · obtain ⟨hu, hn⟩ := fields_of_mask_F00F hw
    rw [classify_eq_classify8 (hu.trans hp), classify_eq_classify8 hp, hn]
  · obtain ⟨hu, hk⟩ := fields_of_mask_F0FF hw
    exact classify_eq_of_fieldU_fieldKK hu hk

/-- The words of a row decode to the instruction that the row's tag makes of their fields (R96, R122). -/
theorem rowDecodes_of_mem {r : Row} (hr : r ∈ opcodeTable) {f : Word → Instr}
    (hf : ∀ w, { decodeWord w with tag := r.tag }.toInstr = some (f w)) : Machine.RowDecodes r.pattern r.mask f := by
  intro w hw
  rw [← hf w, ← classify_of_row hr hw, decode, decodeWord]

end Sys2Proof
end

section
/-! SUPPORT. The jumps and the register skips: executors that write `pc` and nothing else (spec/41_control_flow.md). -/

namespace Sys2Proof.Machine

/-! ### Executors that only write `pc` (R124) -/

theorem onlyPcChanged_setPc (s : State) (w : Word) : OnlyPcChanged s (s.setPc w) :=
  ⟨rfl, readByte_setPc s w⟩

/-- A skip in the words of R124, for a condition the executor tests as a Boolean. -/
theorem skipIf_spec (s : State) {c : Bool} {P : Prop} [Decidable P] (hc : c = true ↔ P) :
    (s.skipIf c).pc = (if P then s.pc + 4 else s.pc + 2) ∧ OnlyPcChanged s (s.skipIf c) :=
  ⟨by simp only [skipIf_pc, hc], onlyPcChanged_setPc s _⟩

/-! ### Jumps (R141, R148) -/

/-- A 12-bit address and a byte add up to less than 65536, so the 16-bit sum is not reduced (R148). -/
theorem toNat_zextAddr_add_zextByte (nnn : Addr) (b : Byte) :
    (zextAddr nnn + zextByte b).toNat = nnn.toNat + b.toNat := by
  have hfits : nnn.toNat + b.toNat < 2 ^ 16 := by
    have hn := nnn.isLt
    have hb := b.isLt
    omega
  rw [BitVec.toNat_add, toNat_zextAddr, toNat_zextByte, Nat.mod_eq_of_lt hfits]

/-- Settles O36: the words of the row decode by the table, and `JMP` is one write of `pc`. -/
theorem jmpSetsPc : Obligations.JmpSetsPc := by
  refine ⟨rowDecodes_of_mem (r := ⟨.jmp, 0x1000, 0xF000⟩) (by decide) fun _ => rfl, fun nnn s => ?_⟩
  exact ⟨s.setPc (zextAddr nnn), rfl, toNat_zextAddr nnn, onlyPcChanged_setPc s _⟩

/-- Settles O37: as for `JMP`, with a sum that stays below 65536. -/
theorem jmpvAddsV0 : Obligations.JmpvAddsV0 := by
  refine ⟨rowDecodes_of_mem (r := ⟨.jmpv, 0xB000, 0xF000⟩) (by decide) fun _ => rfl, fun nnn s => ?_⟩
  exact ⟨s.setPc (zextAddr nnn + zextByte (s.getV 0)), rfl, toNat_zextAddr_add_zextByte nnn _,
    onlyPcChanged_setPc s _⟩

/-! ### Skips on registers (R143 to R146) -/

/-- Settles O41: both instructions are skips, on the Boolean test of `V[x]` against `kk`. -/
theorem immediateSkipsCompareVxWithKk : Obligations.ImmediateSkipsCompareVxWithKk := by
  refine ⟨rowDecodes_of_mem (r := ⟨.skei, 0x3000, 0xF000⟩) (by decide) fun _ => rfl,
    rowDecodes_of_mem (r := ⟨.sknei, 0x4000, 0xF000⟩) (by decide) fun _ => rfl, fun x kk s => ⟨?skei, ?sknei⟩⟩
  case skei => exact ⟨s.skipIf (s.getV x == kk), rfl, skipIf_spec s beq_iff_eq⟩
  case sknei => exact ⟨s.skipIf (s.getV x != kk), rfl, skipIf_spec s bne_iff_ne⟩

/-- Settles O42: both instructions are skips, on the Boolean test of `V[x]` against `V[y]`; the executor is not given the
low nibble. -/
theorem registerSkipsCompareVxWithVy : Obligations.RegisterSkipsCompareVxWithVy := by
  refine ⟨rowDecodes_of_mem (r := ⟨.ske, 0x5000, 0xF000⟩) (by decide) fun _ => rfl,
    rowDecodes_of_mem (r := ⟨.skne, 0x9000, 0xF000⟩) (by decide) fun _ => rfl, fun x y n s => ⟨?ske, ?skne⟩⟩
  case ske => exact ⟨s.skipIf (s.getV x == s.getV y), rfl, skipIf_spec s beq_iff_eq⟩
  case skne => exact ⟨s.skipIf (s.getV x != s.getV y), rfl, skipIf_spec s bne_iff_ne⟩

end Sys2Proof.Machine
end

section
/-! SUPPORT. The operations that write one register and advance `pc` (spec/42_alu.md). -/

namespace Sys2Proof.Machine

/-- The frame of an executor that writes one register and falls through (R124). -/
theorem onlyRegsChanged_setV_advance (s : State) (x : Nibble) (b : Byte) :
    OnlyRegsChanged s (s.setV x b).advance [x] := by
  refine ⟨rfl, fun j hj => ?_, readByte_setV s x b⟩
  have hne : x ≠ j := (List.ne_of_not_mem_cons hj).symm
  exact getV_setV_ne s hne b

/-- Settles O29: the words of the row decode by the table, and `MOVI` is one write of `V[x]` before `pc` advances. -/
theorem moviLoadsTheImmediate : Obligations.MoviLoadsTheImmediate := by
  refine ⟨rowDecodes_of_mem (r := ⟨.movi, 0x6000, 0xF000⟩) (by decide) fun _ => rfl, fun x kk s => ?_⟩
  exact ⟨(s.setV x kk).advance, rfl, getV_setV_same s x kk, rfl, onlyRegsChanged_setV_advance s x kk⟩

end Sys2Proof.Machine
end

section
/-! SUPPORT. The operations that write `I` and advance `pc` (spec/43_index_memory.md section 2). -/

namespace Sys2Proof.Machine

/-- The frame of an executor that writes `I` and falls through (R124). -/
theorem setI_advance_frame (s : State) (w : Word) :
    (s.setI w).advance = { s with i := w, pc := s.pc + 2 } ∧ MemoryUnchanged s (s.setI w).advance :=
  ⟨rfl, readByte_setI s w⟩

/-- Settles O43: the words of the row decode by the table, and `SETI` is one write of `I`, which keeps the value of the
12-bit address, before `pc` advances. -/
theorem setiLoadsTheIndex : Obligations.SetiLoadsTheIndex := by
  refine ⟨rowDecodes_of_mem (r := ⟨.seti, 0xA000, 0xF000⟩) (by decide) fun _ => rfl, fun nnn s => ?_⟩
  exact ⟨(s.setI (zextAddr nnn)).advance, rfl, toNat_zextAddr nnn, rfl, setI_advance_frame s (zextAddr nnn)⟩

end Sys2Proof.Machine
end

section
/-! SUPPORT. Encoder and decoder are inverse to each other, and the decoder agrees with the opcode table row by row
(spec/30_encoding.md rules R91 to R98). -/

namespace Sys2Proof

/-! ### Decoding what was encoded (R92, R96) -/

/-- The encoder writes a word of the instruction's own row, for every instruction (R96). -/
theorem encodesInRow (i : Instr) : Laws.EncodesInRow.Statement i := by
  open Laws.EncodesInRow in
  cases i
  exacts [clear _, ret _, jmp _, call _, skei _ _, sknei _ _, ske _ _ _, movi _ _, addi _ _, mov _ _, or _ _, and _ _,
    xor _ _, add _ _, sub _ _, shr _ _, subn _ _, shl _ _, skne _ _ _, seti _, jmpv _, rnd _ _, draw _ _ _, skp _,
    sknp _, getdt _, waitk _, setdt _, setst _, iadd _, font _, bcd _, stm _, ldm _]

theorem classify_encode (i : Instr) : classify (encode i) = i.tag := by
  obtain ⟨r, hr, htag, hsel⟩ := encodesInRow i
  rw [← htag]
  exact classify_of_row hr (beq_iff_eq.1 hsel)

/-- The fields an instruction's format uses come back from its word (R92). -/
theorem toInstr_fields_encode (i : Instr) : { decodeWord (encode i) with tag := i.tag }.toInstr = some i := by
  cases i <;> simp [Instr.tag, Instruction.toInstr, decodeWord, encode]

theorem decode_encode (i : Instr) : decode (encode i) = some i := by
  rw [← toInstr_fields_encode i, ← classify_encode i, decode, decodeWord]

theorem decodeBytes_encodeBytes (i : Instr) (rest : List Byte) : decodeBytes (encodeBytes i ++ rest) = .ok (i, rest) := by
  simp only [encodeBytes, bytesOfWord, List.cons_append, List.nil_append, decodeBytes, wordOfBytes_bytes, decode_encode]

/-- Settles O1: the encoder's word lies in the instruction's row, so the decoder gives it the instruction's tag, and the
fields come back from their places. -/
theorem decodeOfEncodeIsIdentity : Obligations.DecodeOfEncodeIsIdentity :=
  fun i rest => ⟨decode_encode i, decodeBytes_encodeBytes i rest⟩

/-! ### Encoding what was decoded (R91) -/

theorem wordA_of_fieldU {w : Word} {u : Nibble} (hu : fieldU w = u) : wordA u (fieldNNN w) = w := by
  rw [← hu, wordA_fields]

theorem wordXK_of_fieldU {w : Word} {u : Nibble} (hu : fieldU w = u) : wordXK u (fieldX w) (fieldKK w) = w := by
  rw [← hu, wordXK_fields]

theorem wordXK_of_fieldU_fieldKK {w : Word} {u : Nibble} {kk : Byte} (hu : fieldU w = u) (hk : fieldKK w = kk) :
    wordXK u (fieldX w) kk = w := by
  rw [← hk, wordXK_of_fieldU hu]

theorem wordXYN_of_fieldU {w : Word} {u : Nibble} (hu : fieldU w = u) :
    wordXYN u (fieldX w) (fieldY w) (fieldN w) = w := by
  rw [← hu, wordXYN_fields]

theorem wordXYN_of_fieldU_fieldN {w : Word} {u n : Nibble} (hu : fieldU w = u) (hn : fieldN w = n) :
    wordXYN u (fieldX w) (fieldY w) n = w := by
  rw [← hn, wordXYN_of_fieldU hu]

theorem encode_of_classify0 {w : Word} {i : Instr} (hu : fieldU w = 0x0)
    (h : { decodeWord w with tag := classify0 (fieldKK w) }.toInstr = some i) : encode i = w := by
  unfold classify0 at h
  split at h <;> cases h
  all_goals exact wordXK_of_fieldU_fieldKK hu ‹_›

theorem encode_of_classify8 {w : Word} {i : Instr} (hu : fieldU w = 0x8)
    (h : { decodeWord w with tag := classify8 (fieldN w) }.toInstr = some i) : encode i = w := by
  unfold classify8 at h
  split at h <;> cases h
  all_goals exact wordXYN_of_fieldU_fieldN hu ‹_›

theorem encode_of_classifyE {w : Word} {i : Instr} (hu : fieldU w = 0xE)
    (h : { decodeWord w with tag := classifyE (fieldKK w) }.toInstr = some i) : encode i = w := by
  unfold classifyE at h
  split at h <;> cases h
  all_goals exact wordXK_of_fieldU_fieldKK hu ‹_›

theorem encode_of_classifyF {w : Word} {i : Instr} (hu : fieldU w = 0xF)
    (h : { decodeWord w with tag := classifyF (fieldKK w) }.toInstr = some i) : encode i = w := by
  unfold classifyF at h
  split at h <;> cases h
  all_goals exact wordXK_of_fieldU_fieldKK hu ‹_›

/-- Settles O2: class by class, the class nibble and the sub-opcode are what the encoder puts back, and every other bit of
the word is in a field of the instruction. -/
theorem encodeOfDecodeIsIdentity : Obligations.EncodeOfDecodeIsIdentity := by
  intro w i h
  replace h : { decodeWord w with tag := classify w }.toInstr = some i := h
  unfold classify at h
  split at h
  case h_1 hu => exact encode_of_classify0 hu h
  case h_9 hu => exact encode_of_classify8 hu h
  case h_15 hu => exact encode_of_classifyE hu h
  case h_16 =>
    have hu : fieldU w = 0xF := by
      simp only [imp_false] at *
      bv_omega
    exact encode_of_classifyF hu h
  case h_2 hu | h_3 hu | h_11 hu | h_12 hu => cases h; exact wordA_of_fieldU hu
  case h_4 hu | h_5 hu | h_7 hu | h_8 hu | h_13 hu => cases h; exact wordXK_of_fieldU hu
  case h_6 hu | h_10 hu | h_14 hu => cases h; exact wordXYN_of_fieldU hu

/-! ### The decoder and the opcode table (R96) -/

/-- The 34 rows have 34 tags, none of them UNRECOGNIZED's. -/
theorem opcodeTable_tags : (opcodeTable.map Row.tag).Nodup ∧ ∀ r ∈ opcodeTable, r.tag ≠ .unrecognized := by
  decide

/-- A word with a row's tag selects that row (R96). -/
theorem selects_of_classify {r : Row} (hr : r ∈ opcodeTable) {w : Word} (hw : classify w = r.tag) :
    w &&& r.mask = r.pattern := by
  obtain ⟨hnodup, hrec⟩ := opcodeTable_tags
  obtain ⟨mask, hrow⟩ := exists_mask_row_mem (hw.trans_ne (hrec r hr))
  have hsame := List.inj_on_of_nodup_map hnodup hrow hr hw
  rw [← hsame]

/-- Settles O3: a selected row fixes the tag, and the tag's row is the only one with that tag, so the word selects it. -/
theorem opcodeTableSelectsExactlyTheTag : Obligations.OpcodeTableSelectsExactlyTheTag := by
  refine ⟨rfl, fun w r hr => ⟨classify_of_row hr, selects_of_classify hr⟩, fun w => ⟨fun hnone r hr hw => ?_,
    decode_eq_none_of_no_row⟩⟩
  have htag : r.tag = .unrecognized := (classify_of_row hr hw).symm.trans ((decode_eq_none_iff w).1 hnone)
  exact opcodeTable_tags.2 r hr htag

/-! ### The unrecognised words (R98) -/

theorem classify0_eq_unrecognized_iff (kk : Byte) : classify0 kk = .unrecognized ↔ kk ∉ [0xE0, 0xEE] := by
  unfold classify0
  split <;> simp_all

theorem classify8_eq_unrecognized_iff (n : Nibble) :
    classify8 n = .unrecognized ↔ n ∈ [0x8, 0x9, 0xA, 0xB, 0xC, 0xD, 0xF] := by
  revert n
  decide

theorem classifyE_eq_unrecognized_iff (kk : Byte) : classifyE kk = .unrecognized ↔ kk ∉ [0x9E, 0xA1] := by
  unfold classifyE
  split <;> simp_all

theorem classifyF_eq_unrecognized_iff (kk : Byte) : classifyF kk = .unrecognized ↔
    kk ∉ [0x07, 0x0A, 0x15, 0x18, 0x1E, 0x29, 0x33, 0x55, 0x65] := by
  unfold classifyF
  split <;> simp_all

/-- Settles O4: outside the four polymorphic classes every word has a tag, and in each of them the second key decides. -/
theorem unrecognizedWordsAreTheListedOnes : Obligations.UnrecognizedWordsAreTheListedOnes := by
  intro w
  rw [decode_eq_none_iff, ← classify0_eq_unrecognized_iff, ← classify8_eq_unrecognized_iff,
    ← classifyE_eq_unrecognized_iff, ← classifyF_eq_unrecognized_iff]
  unfold classify
  split
  case h_16 =>
    have hu : fieldU w = 0xF := by
      simp only [imp_false] at *
      bv_omega
    simp [hu]
  all_goals simp [‹fieldU w = _›]

/-- Settles O6: nine closed words, decoded. -/
theorem sampleWordsDecode : Obligations.SampleWordsDecode := by
  unfold Obligations.SampleWordsDecode
  decide

/-! ### The ignored nibbles (R92, R127) -/

/-- Words that agree under a mask which covers a row's mask are both of that row or both not (R96). -/
theorem classify_eq_of_covered_row {r : Row} (hr : r ∈ opcodeTable) {w w' m : Word} (hm : m &&& r.mask = r.mask)
    (h : w &&& m = w' &&& m) (hw : classify w = r.tag) : classify w' = r.tag := by
  apply classify_of_row hr
  rw [← hm, ← BitVec.and_assoc, ← h, BitVec.and_assoc, hm, selects_of_classify hr hw]

/-- The tag does not depend on `x` (R127). -/
theorem classify_eq_of_mask_F0FF {w w' : Word} (h : w &&& 0xF0FF = w' &&& 0xF0FF) : classify w = classify w' := by
  obtain ⟨hu, hk⟩ := fields_of_mask_F0FF h
  obtain ⟨hu', hk'⟩ := fields_of_mask_F0FF (rfl : w' &&& 0xF0FF = _)
  exact classify_eq_of_fieldU_fieldKK (hu.trans hu'.symm) (hk.trans hk'.symm)

/-- A mask of `0xFFF0` keeps `x` and `y`. -/
theorem fields_eq_of_mask_FFF0 {w w' : Word} (h : w &&& 0xFFF0 = w' &&& 0xFFF0) :
    fieldX w = fieldX w' ∧ fieldY w = fieldY w' := by
  have hx := congrArg fieldX h
  have hy := congrArg fieldY h
  have hm : ∀ u : Nibble, u &&& 15#4 = u := fun _ => BitVec.and_allOnes
  simp only [fieldX, fieldY, BitVec.extractLsb'_and] at hx hy
  exact ⟨by simpa [fieldX, hm] using hx, by simpa [fieldY, hm] using hy⟩

/-- A mask of `0xFF0F` keeps `x`. -/
theorem fieldX_eq_of_mask_FF0F {w w' : Word} (h : w &&& 0xFF0F = w' &&& 0xFF0F) : fieldX w = fieldX w' := by
  have hx := congrArg fieldX h
  have hm : ∀ u : Nibble, u &&& 15#4 = u := fun _ => BitVec.and_allOnes
  simp only [fieldX, BitVec.extractLsb'_and] at hx
  simpa [fieldX, hm] using hx

/-- A word with a tag runs the instruction that the tag makes of its fields (R122, R123). -/
theorem execWord_of_classify {w : Word} {tag : Tag} {i : Instr} (hw : classify w = tag)
    (hi : { decodeWord w with tag := tag }.toInstr = some i) (s : Machine.State) :
    Machine.execWord w s = Machine.exec i s := by
  have hd : decode w = some i := by rw [← hi, ← hw, decode, decodeWord]
  rw [Machine.execWord, hd]

/-- Settles O7: a mask without the ignored nibble still covers the row's mask, so the tags agree, and the executor reads
only fields that the mask keeps. -/
theorem ignoredNibblesDoNotMatter : Obligations.IgnoredNibblesDoNotMatter := by
  refine ⟨fun w w' => classify_eq_of_mask_F0FF, fun w w' s => ⟨fun h hc => ?x, fun h hc => ?n, fun h hc => ?y⟩⟩
  case x =>
    have hcc := classify_eq_of_mask_F0FF h
    obtain hw | hw : classify w = .clear ∨ classify w = .ret := by simpa using hc
    all_goals
      rw [execWord_of_classify hw rfl, execWord_of_classify (hcc.symm.trans hw) rfl]
      rfl
  case n =>
    obtain ⟨hx, hy⟩ := fields_eq_of_mask_FFF0 h
    obtain hw | hw : classify w = .ske ∨ classify w = .skne := by simpa using hc
    · have hw' := classify_eq_of_covered_row (r := ⟨.ske, 0x5000, 0xF000⟩) (by decide) (by decide) h hw
      rw [execWord_of_classify hw rfl, execWord_of_classify hw' rfl]
      simp only [Machine.exec, decodeWord, hx, hy]
    · have hw' := classify_eq_of_covered_row (r := ⟨.skne, 0x9000, 0xF000⟩) (by decide) (by decide) h hw
      rw [execWord_of_classify hw rfl, execWord_of_classify hw' rfl]
      simp only [Machine.exec, decodeWord, hx, hy]
  case y =>
    have hx := fieldX_eq_of_mask_FF0F h
    obtain hw | hw : classify w = .shr ∨ classify w = .shl := by simpa using hc
    · have hw' := classify_eq_of_covered_row (r := ⟨.shr, 0x8006, 0xF00F⟩) (by decide) (by decide) h hw
      rw [execWord_of_classify hw rfl, execWord_of_classify hw' rfl]
      simp only [Machine.exec, decodeWord, hx]
    · have hw' := classify_eq_of_covered_row (r := ⟨.shl, 0x800E, 0xF00F⟩) (by decide) (by decide) h hw
      rw [execWord_of_classify hw rfl, execWord_of_classify hw' rfl]
      simp only [Machine.exec, decodeWord, hx]

end Sys2Proof
end

section
/-! SUPPORT. What an instruction can do, said once: it halts exactly where the table of R250 says and otherwise has its
effect; what that effect is on each part of the state (spec/10_state.md, spec/40_decode_dispatch.md section 4,
spec/60_exceptions.md section 1). -/

namespace Sys2Proof.Machine

/-! ### Halt or effect (R123, R250) -/

/-- The next state of an instruction that meets no halting condition, in the operations its executor is made of. -/
def effectOf (i : Instr) (s : State) : State :=
  match i with
  | .clear _ => (s.setFrame Frame.blank).advance
  | .ret _ => (s.setPc s.stackTop).dropReturn
  | .jmp nnn => s.setPc (zextAddr nnn)
  | .call nnn => (s.pushReturn (s.pc + 2)).setPc (zextAddr nnn)
  | .skei x kk => s.skipIf (s.getV x == kk)
  | .sknei x kk => s.skipIf (s.getV x != kk)
  | .ske x y _ => s.skipIf (s.getV x == s.getV y)
  | .movi x kk => (s.setV x kk).advance
  | .addi x kk => (s.setV x (s.getV x + kk)).advance
  | .mov x y => (s.setV x (s.getV y)).advance
  | .or x y => (s.setV x (s.getV x ||| s.getV y)).advance
  | .and x y => (s.setV x (s.getV x &&& s.getV y)).advance
  | .xor x y => (s.setV x (s.getV x ^^^ s.getV y)).advance
  | .add x y => (s.setResultFlag x (s.getV x + s.getV y) (carryOut (s.getV x) (s.getV y))).advance
  | .sub x y => (s.setResultFlag x (s.getV x - s.getV y) (notBorrow (s.getV x) (s.getV y))).advance
  | .shr x _ => (s.setResultFlag x (s.getV x >>> 1) (lowBitOut (s.getV x))).advance
  | .subn x y => (s.setResultFlag x (s.getV y - s.getV x) (notBorrow (s.getV y) (s.getV x))).advance
  | .shl x _ => (s.setResultFlag x (s.getV x <<< 1) (highBitOut (s.getV x))).advance
  | .skne x y _ => s.skipIf (s.getV x != s.getV y)
  | .seti nnn => (s.setI (zextAddr nnn)).advance
  | .jmpv nnn => s.setPc (zextAddr nnn + zextByte (s.getV 0))
  | .rnd x kk => (s.setV x (s.world.randByte &&& kk)).advance
  | .draw x y n => ((s.setFrame (s.drawSprite (s.getV x) (s.getV y) n.toNat).1).setFlag
      (s.drawSprite (s.getV x) (s.getV y) n.toNat).2).advance
  | .skp x => s.skipIf (s.keyDown (s.getV x))
  | .sknp x => s.skipIf (!s.keyDown (s.getV x))
  | .getdt x => (s.setV x s.dt).advance
  | .waitk x => (s.firstKeyDown).elim s fun k => (s.setV x (BitVec.ofNat 8 k.val)).advance
  | .setdt x => (s.setDT (s.getV x)).advance
  | .setst x => (s.setST (s.getV x)).advance
  | .iadd x => (s.setI (s.i + zextByte (s.getV x))).advance
  | .font x => (s.setI (zextByte (s.getV x) * 5)).advance
  | .bcd x => (s.writeBytes (s.effAddr 0) (bcdDigits (s.getV x))).advance
  | .stm x => (s.writeBytes (s.effAddr 0) (s.regBlock x)).advance
  | .ldm x => (s.setVs (s.bytesAtI (x.toNat + 1))).advance

/-- An instruction that meets its halting condition writes the three latches and nothing else (R250, R256). -/
theorem exec_of_haltOf_eq_some {i : Instr} {s : State} {code : BitVec 3} {info : Word}
    (h : haltOf i s = some (code, info)) :
    exec i s = .next { s with halted := true, haltCause := code, haltInfo := info } := by
  cases i <;> simp only [haltOf, Option.ite_none_right_eq_some, Option.some.injEq, Prod.mk.injEq, reduceCtorEq] at h
  all_goals obtain ⟨hcond, rfl, rfl⟩ := h
  case call nnn => exact execCall_at_top nnn hcond
  case ret => exact execRet_empty hcond
  case bcd | stm | ldm | draw => exact withMemCheck_out_of_range (by omega) (by omega) _

/-- An instruction that meets no halting condition has its effect (R123). -/
theorem exec_of_haltOf_eq_none {i : Instr} {s : State} (h : haltOf i s = none) :
    exec i s = .next (effectOf i s) := by
  cases i
  case call nnn => exact execCall_below_top nnn (by simpa [haltOf] using h)
  case ret => exact execRet_not_empty (by simpa [haltOf] using h)
  case bcd | stm | ldm | draw =>
    simp only [haltOf, ite_eq_right_iff, reduceCtorEq, imp_false] at h
    exact withMemCheck_in_range (by omega) _
  case waitk =>
    simp only [exec, execWaitk, effectOf]
    cases s.firstKeyDown <;> rfl
  all_goals rfl

/-- Inversion of `exec`: the next state is the halting state or the effect. -/
theorem exec_cases {i : Instr} {s t : State} (h : exec i s = .next t) :
    (∃ code info, haltOf i s = some (code, info) ∧
      t = { s with halted := true, haltCause := code, haltInfo := info }) ∨
    (haltOf i s = none ∧ t = effectOf i s) := by
  cases hh : haltOf i s with
  | some c => exact .inl ⟨c.1, c.2, rfl, Host.Outcome.next.inj (h.symm.trans (exec_of_haltOf_eq_some hh))⟩
  | none => exact .inr ⟨rfl, Host.Outcome.next.inj (h.symm.trans (exec_of_haltOf_eq_none hh))⟩

/-- Every instruction answers a next state in every state (R99, R250). -/
theorem exec_answers_next (i : Instr) (s : State) : ∃ t, exec i s = .next t := by
  cases hh : haltOf i s with
  | some c => exact ⟨_, exec_of_haltOf_eq_some hh⟩
  | none => exact ⟨_, exec_of_haltOf_eq_none hh⟩

/-! ### What the effect leaves alone (R20, R68) -/

/-- What the "written by" column of R20 leaves alone: for each piece of state, the instructions that may write it. A proof
names only the fields that an instruction is excused from; the others hold by computation. -/
structure WritesOnlyNamed (i : Instr) (s t : State) : Prop where
  index : i.tag ∉ [Tag.seti, Tag.iadd, Tag.font] → t.i = s.i := by exact fun _ => rfl
  dt : i.tag ≠ Tag.setdt → t.dt = s.dt := by exact fun _ => rfl
  st : i.tag ≠ Tag.setst → t.st = s.st := by exact fun _ => rfl
  stack : i.tag ≠ Tag.call → t.stack = s.stack := by exact fun _ => rfl
  sp : i.tag ∉ [Tag.call, Tag.ret] → t.sp = s.sp := by exact fun _ => rfl
  display : i.tag ∉ [Tag.clear, Tag.draw] → t.fb = s.fb ∧ t.redrawPending = s.redrawPending := by
    exact fun _ => ⟨rfl, rfl⟩
  mem : i.tag ∉ [Tag.bcd, Tag.stm] → t.mem = s.mem := by exact fun _ => rfl
  rest : t = { s with v := t.v, i := t.i, pc := t.pc, dt := t.dt, st := t.st, stack := t.stack, sp := t.sp,
                      mem := t.mem, fb := t.fb, redrawPending := t.redrawPending } := by exact rfl

/-- Registers and `pc` are outside what `WritesOnlyNamed` speaks of. -/
theorem writesOnlyNamed_of_regs (i : Instr) {s t : State} (h : t = { s with v := t.v, pc := t.pc }) :
    WritesOnlyNamed i s t := by
  rw [h]
  exact {}

/-- Loading a block and advancing changes registers and `pc` alone. -/
theorem setVs_advance_frame (s : State) (bs : List Byte) :
    (s.setVs bs).advance.pc = s.pc + 2 ∧
      (s.setVs bs).advance = { s with v := (s.setVs bs).advance.v, pc := (s.setVs bs).advance.pc } ∧
      MemoryUnchanged s (s.setVs bs).advance :=
  ⟨by rw [advance_pc, setVs_pc], by rw [State.advance, State.setPc, State.setVs],
    fun a => by rw [readByte_advance, readByte_setVs]⟩

/-- The effect of an instruction writes only what the spec names for it (R20). -/
theorem effectOf_writesOnlyNamed (i : Instr) (s : State) : WritesOnlyNamed i s (effectOf i s) := by
  cases i
  case seti | iadd | font => exact { index := fun h => absurd (by simp [Instr.tag]) h }
  case setdt => exact { dt := fun h => absurd rfl h }
  case setst => exact { st := fun h => absurd rfl h }
  case call => exact { stack := fun h => absurd rfl h, sp := fun h => absurd (by simp [Instr.tag]) h }
  case ret => exact { sp := fun h => absurd (by simp [Instr.tag]) h }
  case clear | draw => exact { display := fun h => absurd (by simp [Instr.tag]) h }
  case bcd | stm =>
    simp only [effectOf, writeBytes_advance_frame]
    exact { mem := fun h => absurd (by simp [Instr.tag]) h }
  case waitk x =>
    cases hk : s.firstKeyDown <;> exact writesOnlyNamed_of_regs _ (by simp only [effectOf, hk]; rfl)
  case ldm x =>
    obtain ⟨-, hframe, -⟩ := setVs_advance_frame s (s.bytesAtI (x.toNat + 1))
    exact writesOnlyNamed_of_regs _ hframe
  all_goals exact writesOnlyNamed_of_regs _ rfl

@[simp] theorem effectOf_config (i : Instr) (s : State) : (effectOf i s).config = s.config := by
  rw [(effectOf_writesOnlyNamed i s).rest]
@[simp] theorem effectOf_world (i : Instr) (s : State) : (effectOf i s).world = s.world := by
  rw [(effectOf_writesOnlyNamed i s).rest]
@[simp] theorem effectOf_lastTick (i : Instr) (s : State) : (effectOf i s).lastTick = s.lastTick := by
  rw [(effectOf_writesOnlyNamed i s).rest]
@[simp] theorem effectOf_beep (i : Instr) (s : State) : (effectOf i s).beep = s.beep := by
  rw [(effectOf_writesOnlyNamed i s).rest]
@[simp] theorem effectOf_keys (i : Instr) (s : State) : (effectOf i s).keys = s.keys := by
  rw [(effectOf_writesOnlyNamed i s).rest]
@[simp] theorem effectOf_halted (i : Instr) (s : State) : (effectOf i s).halted = s.halted := by
  rw [(effectOf_writesOnlyNamed i s).rest]
@[simp] theorem effectOf_haltCause (i : Instr) (s : State) : (effectOf i s).haltCause = s.haltCause := by
  rw [(effectOf_writesOnlyNamed i s).rest]
@[simp] theorem effectOf_haltInfo (i : Instr) (s : State) : (effectOf i s).haltInfo = s.haltInfo := by
  rw [(effectOf_writesOnlyNamed i s).rest]

/-- Outside the bytes of R68 the effect leaves memory alone. -/
theorem readByte_effectOf {i : Instr} {s : State} {a : Nat} (h : ¬MayStore i s a) :
    (effectOf i s).readByte a = s.readByte a := by
  by_cases hm : i.tag ∈ [Tag.bcd, Tag.stm]
  · cases i <;> simp only [Instr.tag, List.mem_cons, List.not_mem_nil, reduceCtorEq, or_self] at hm
    case bcd | stm =>
      refine readByte_writeBytes_outside s _ _ _ ?_
      simp only [MayStore, State.effAddr] at h
      simp only [State.effAddr, length_regBlock, length_bcdDigits]
      omega
  · exact readByte_congr ((effectOf_writesOnlyNamed i s).mem hm) (effectOf_config i s) a

/-- Settles O26: a halting state differs in the latches alone, and the effect writes only what the spec names. -/
theorem everyOtherStateIsLeftAlone : Obligations.EveryOtherStateIsLeftAlone := by
  intro i s t h
  obtain ⟨code, info, hh, rfl⟩ | ⟨hh, rfl⟩ := exec_cases h
  · exact ⟨fun _ => rfl, fun _ => rfl, fun _ => rfl, fun _ => rfl, fun _ => rfl, fun _ => ⟨rfl, rfl⟩, fun _ _ => rfl,
      fun hn => absurd (hh.symm.trans hn) (by simp), rfl, rfl, rfl, rfl, rfl⟩
  · obtain ⟨hi, hdt, hst, hstack, hsp, hdisplay, -, -⟩ := effectOf_writesOnlyNamed i s
    exact ⟨hi, hdt, hst, hstack, hsp, hdisplay, fun a => readByte_effectOf,
      fun _ => ⟨effectOf_halted i s, effectOf_haltCause i s, effectOf_haltInfo i s⟩, effectOf_keys i s,
      effectOf_lastTick i s, effectOf_beep i s, effectOf_config i s, effectOf_world i s⟩

/-- Settles O27: the halting state by the condition each of the six instructions checks, and otherwise the effect, which
leaves the latches alone. -/
theorem instructionsHaltExactlyAsListed : Obligations.InstructionsHaltExactlyAsListed :=
  fun i s => ⟨fun _ _ => exec_of_haltOf_eq_some, fun hh => ⟨effectOf i s, exec_of_haltOf_eq_none hh,
    effectOf_halted i s, effectOf_haltCause i s, effectOf_haltInfo i s⟩⟩

/-! ### Registers (R23) -/

/-- A register that the table of R23 does not name for an instruction keeps its value. -/
theorem getV_effectOf {i : Instr} {j : Nibble} (h : ¬MayWrite i j) (s : State) :
    (effectOf i s).getV j = s.getV j := by
  cases i <;> simp only [MayWrite, not_or] at h
  case movi | addi | mov | or | and | xor | rnd | getdt => exact getV_setV_ne s (Ne.symm h) _
  case waitk x =>
    rw [effectOf]
    cases s.firstKeyDown with
    | none => rfl
    | some k => exact getV_setV_ne s (Ne.symm h) _
  case add | sub | subn | shr | shl =>
    obtain ⟨hx, hf⟩ := h
    simp only [effectOf, getV_advance, getV_setResultFlag, if_neg hx, if_neg hf]
  case draw => exact getV_setV_ne _ (Ne.symm h) _
  case ldm x =>
    simp only [effectOf, getV_advance, getV_setVs]
    exact getD_bytesAtI_of_le s (by omega) _
  case bcd | stm => exact getV_congr (writeBytes_v _ _ _) j
  all_goals rfl

/-- Settles O25: a halt writes no register, and the effect none that the table does not name. -/
theorem onlyNamedRegistersAreWritten : Obligations.OnlyNamedRegistersAreWritten := by
  intro i s t j h hj
  obtain ⟨code, info, -, rfl⟩ | ⟨hh, rfl⟩ := exec_cases h
  · rfl
  · exact getV_effectOf (hj.resolve_right (not_not_intro hh)) s

/-! ### The next `pc` (R124) -/

/-- A skip in the words of R124. -/
theorem pc_skipIf_contract (s : State) {c : Bool} {P : Prop} (hc : c = true ↔ P) :
    (P → (s.skipIf c).pc = s.pc + 4) ∧ (¬P → (s.skipIf c).pc = s.pc + 2) := by
  rw [skipIf_pc, ← hc]
  exact ⟨fun h => if_pos h, fun h => if_neg h⟩

/-- `WAITK` stays while no key is down and advances otherwise (R233). -/
theorem pc_effectOf_waitk (x : Nibble) (s : State) : NextPcIs (.waitk x) s (effectOf (.waitk x) s).pc := by
  simp only [NextPcIs, effectOf]
  cases hk : s.firstKeyDown with
  | none =>
    have hup := (firstKeyDown_eq_none s).1 hk
    exact ⟨fun ⟨k, hdown⟩ => absurd hdown (by simp [hup k]), fun _ => rfl⟩
  | some k =>
    have hdown := ((firstKeyDown_eq_some s k).1 hk).1
    exact ⟨fun _ => rfl, fun hup => absurd hdown (by simp [hup k])⟩

/-- The effect's next `pc` is that of the contract's table (R124). -/
theorem pc_effectOf (i : Instr) (s : State) : NextPcIs i s (effectOf i s).pc := by
  cases i
  case jmp nnn | call nnn => exact toNat_zextAddr nnn
  case jmpv nnn => exact toNat_zextAddr_add_zextByte nnn _
  case skei | ske => exact pc_skipIf_contract s beq_iff_eq
  case sknei | skne => exact pc_skipIf_contract s bne_iff_ne
  case skp x => exact pc_skipIf_contract s (keyDown_iff s _)
  case sknp x =>
    refine pc_skipIf_contract s ?_
    rw [Bool.not_eq_true', ← Bool.not_eq_true, keyDown_iff]
    rfl
  case waitk x => exact pc_effectOf_waitk x s
  case bcd | stm => exact congrArg (· + 2) (writeBytes_pc _ _ _)
  case ldm => exact congrArg (· + 2) (setVs_pc _ _)
  all_goals rfl

/-- A `CALL` leaves the pushed address on top of the stack (R142). -/
theorem stackTop_pushReturn (s : State) (ret : Word) : (s.pushReturn ret).stackTop = ret := by
  simp [State.stackTop, State.pushReturn]

/-- Settles O24: a halt leaves `pc` alone, the effect follows the contract, and `CALL` has pushed `pc + 2`. -/
theorem nextPcFollowsTheContract : Obligations.NextPcFollowsTheContract := by
  refine ⟨fun i s t h => ?_, fun s t h => ?_, fun nnn s t h hh => ?_⟩
  · obtain ⟨code, info, hh, rfl⟩ | ⟨hh, rfl⟩ := exec_cases h
    · exact ⟨fun hn => absurd (hh.symm.trans hn) (by simp), fun _ => rfl⟩
    · exact ⟨fun _ => pc_effectOf i s, fun hn => absurd hh hn⟩
  · cases h
    rfl
  · rw [exec_of_haltOf_eq_none hh] at h
    cases h
    exact stackTop_pushReturn s _

/-! ### What no instruction reads (R123) -/

/-- The state with other contents of everything that no program can read. -/
def State.withHidden (s : State) (st : Byte) (redraw beep : Bool) (tick : Nat) (w : World) : State :=
  { s with st := st, redrawPending := redraw, beep := beep, lastTick := tick, world := w }

/-- Whether an instruction halts does not depend on what is hidden. -/
theorem haltOf_withHidden (i : Instr) (s : State) (st : Byte) (redraw beep : Bool) (tick : Nat) (w : World) :
    haltOf i (s.withHidden st redraw beep tick w) = haltOf i s := by
  cases i <;> rfl

/-- Up to what is hidden, the effect does not depend on it, but for the random byte of `RND`. -/
theorem effectOf_withHidden {i : Instr} (s : State) (st : Byte) (redraw beep : Bool) (tick : Nat) {w : World}
    (hr : i.tag = Tag.rnd → w.randByte = s.world.randByte) (st' : Byte) (redraw' beep' : Bool) (tick' : Nat)
    (w' : World) :
    (effectOf i (s.withHidden st redraw beep tick w)).withHidden st' redraw' beep' tick' w' =
      (effectOf i s).withHidden st' redraw' beep' tick' w' := by
  cases i
  case rnd x kk =>
    simp only [effectOf, State.withHidden, hr rfl]
    rfl
  case waitk x =>
    simp only [effectOf, show (s.withHidden st redraw beep tick w).firstKeyDown = s.firstKeyDown from rfl]
    cases s.firstKeyDown <;> rfl
  case bcd x | stm x =>
    have hmem := fun a bs => writeBytes_mem_congr (s := s) (t := s.withHidden st redraw beep tick w) a bs rfl rfl
    simp only [effectOf, writeBytes_advance_frame, hmem]
    rfl
  case draw x y n =>
    have hsprite := fun vx vy n =>
      drawSprite_congr (s := s) (t := s.withHidden st redraw beep tick w) vx vy n rfl rfl rfl rfl
    simp only [effectOf, hsprite]
    rfl
  all_goals rfl

/-- Settles O28: both states halt alike or have effects that differ only in what is hidden; `beep`, `last_tick` and the
world's side no effect writes. -/
theorem hiddenStateCannotBeRead : Obligations.HiddenStateCannotBeRead := by
  intro i s t st redraw beep tick w hr h
  have hh' := haltOf_withHidden i s st redraw beep tick w
  obtain ⟨code, info, hh, rfl⟩ | ⟨hh, rfl⟩ := exec_cases h
  · exact ⟨_, exec_of_haltOf_eq_some (hh'.trans hh), rfl⟩
  · refine ⟨_, exec_of_haltOf_eq_none (hh'.trans hh), ?_⟩
    have hsame := effectOf_withHidden s st redraw beep tick hr (effectOf i s).st (effectOf i s).redrawPending s.beep
      s.lastTick s.world
    have hself : (effectOf i s).withHidden (effectOf i s).st (effectOf i s).redrawPending s.beep s.lastTick s.world =
        effectOf i s := by
      rw [← effectOf_beep i s, ← effectOf_lastTick i s, ← effectOf_world i s]
      rfl
    exact (hsame.trans hself).symm

end Sys2Proof.Machine
end

section
/-! SUPPORT. What a cycle and a step can do, said once, and what every step keeps (spec/40_decode_dispatch.md section 1,
spec/60_exceptions.md sections 2, 4 and 5). -/

namespace Sys2Proof.Machine

/-! ### The cycle (R120) -/

/-- The condition an instruction halts on has one of the codes of R250. -/
theorem haltOf_code_listed {i : Instr} {s : State} {code : BitVec 3} {info : Word}
    (h : haltOf i s = some (code, info)) : 1 ≤ code.toNat ∧ code.toNat ≤ 4 := by
  cases i <;> simp only [haltOf, Option.ite_none_right_eq_some, Option.some.injEq, Prod.mk.injEq, reduceCtorEq] at h
  all_goals
    obtain ⟨-, rfl, -⟩ := h
    decide

/-- A state that differs from another in the latches alone, written by a halt with a listed code (R250, R256). -/
def RaisedFrom (s t : State) : Prop :=
  ∃ (code : BitVec 3) (info : Word), 1 ≤ code.toNat ∧ code.toNat ≤ 4 ∧
    t = { s with halted := true, haltCause := code, haltInfo := info }

/-- Inversion of `cycle`: after sampling and timer check it halts, or has the effect of the instruction at `pc`, or advances
over a word that is none. -/
theorem cycle_cases {e : Nat} {r : Byte} {s t : State} (h : cycle e r s = .next t) :
    RaisedFrom (startCycle e r s) t ∨
    (∃ i, decode s.fetchWord = some i ∧ haltOf i (startCycle e r s) = none ∧ t = effectOf i (startCycle e r s)) ∨
    t = (startCycle e r s).advance := by
  obtain ⟨-, hf⟩ | ⟨-, i, hi, hf⟩ | ⟨-, -, hf⟩ := fetchExecute_cases (startCycle e r s) <;> rw [cycle, hf] at h
  · cases h
    exact .inl ⟨1, s.pc, by decide, by decide, rfl⟩
  · obtain ⟨code, info, hh, rfl⟩ | ⟨hh, rfl⟩ := exec_cases h
    · obtain ⟨hlo, hhi⟩ := haltOf_code_listed hh
      exact .inl ⟨code, info, hlo, hhi, rfl⟩
    · exact .inr (.inl ⟨i, hi, hh, rfl⟩)
  · cases h
    exact .inr (.inr rfl)

theorem cycle_answers_next (e : Nat) (r : Byte) (s : State) : ∃ t, cycle e r s = .next t := by
  obtain ⟨-, hf⟩ | ⟨-, i, -, hf⟩ | ⟨-, -, hf⟩ := fetchExecute_cases (startCycle e r s) <;> rw [cycle, hf]
  · exact ⟨_, rfl⟩
  · exact exec_answers_next i _
  · exact ⟨_, rfl⟩

/-! ### Keeping a property over every step (R121) -/

/-- A property that each thing a step can be made of keeps. -/
structure KeptByMoves (P : State → Prop) : Prop where
  script : ∀ s l, P s → P (s.withScript l)
  free : ∀ s, P s → P s.nextFree
  cycle : ∀ e r s t, P s → cycle e r s = .next t → P t
  keys : ∀ d s, P s → P (hostKeys d s)
  present : ∀ s, P s → P (hostPresent s)
  quit : ∀ s, P s → P (hostQuit s)
  load : ∀ image s, P s → P (hostLoad image s)
  reset : ∀ s, P s → P (hostReset s)

theorem whileRunning_keeps {P : State → Prop} {s t : State} {what : Result} (hs : P s) (hw : what = .next t → P t)
    (h : whileRunning s what = .next t) : P t := by
  obtain ⟨-, hg⟩ | ⟨-, -, hg⟩ | ⟨-, -, hg⟩ := whileRunning_cases s what <;> rw [hg] at h
  · cases h
  · cases h
    exact hs
  · exact hw h

theorem hostLoadChecked_next {image : List Byte} {s t : State} (h : hostLoadChecked image s = .next t) :
    t = hostLoad image s := by
  obtain ⟨-, hl⟩ | ⟨-, -, hl⟩ | ⟨-, -, hl⟩ := hostLoadChecked_cases image s <;> rw [hl] at h <;> cases h
  rfl

/-- What every move keeps, every step keeps. -/
theorem step_keeps {P : State → Prop} (hP : KeptByMoves P) {s t : State} (h : step s = .next t) (hs : P s) : P t := by
  cases hscript : s.world.script with
  | nil =>
    rw [step_of_no_script hscript] at h
    exact whileRunning_keeps hs (hP.cycle _ _ _ _ (hP.free s hs)) h
  | cons m rest =>
    rw [step_of_script hscript] at h
    have hs' := hP.script s rest hs
    cases m with
    | reset => cases h; exact hP.reset _ hs'
    | run e r => exact whileRunning_keeps hs' (hP.cycle e r _ _ hs') h
    | keys d => exact whileRunning_keeps hs' (fun hn => Host.Outcome.next.inj hn ▸ hP.keys d _ hs') h
    | present => exact whileRunning_keeps hs' (fun hn => Host.Outcome.next.inj hn ▸ hP.present _ hs') h
    | quit => exact whileRunning_keeps hs' (fun hn => Host.Outcome.next.inj hn ▸ hP.quit _ hs') h
    | load image => exact whileRunning_keeps hs' (fun hn => hostLoadChecked_next hn ▸ hP.load image _ hs') h

/-! ### The invariant (R39, R28, R33, R260) -/

theorem inv_startCycle (e : Nat) (r : Byte) {s : State} (h : Inv s) : Inv (startCycle e r s) := by
  refine ⟨h.memCanonical, h.latchesClear, h.causeListed, fun _ => rfl, h.entryZero, ?_⟩
  have hlast : s.lastTick ≤ s.world.nowUs + e := Nat.le_add_right_of_le h.tickNotAhead
  change (if (sampleInputs e r s).tickDue then s.world.nowUs + e else s.lastTick) ≤ s.world.nowUs + e
  split
  · exact le_rfl
  · exact hlast

/-- A halt keeps the invariant once a cycle has begun. -/
theorem inv_of_raisedFrom {s t : State} (h : Inv s) (hstarted : s.world.started = true) (ht : RaisedFrom s t) : Inv t := by
  obtain ⟨code, info, hlo, hhi, rfl⟩ := ht
  exact ⟨h.memCanonical, nofun, fun _ => ⟨hlo, hhi⟩, fun _ => hstarted, h.entryZero, h.tickNotAhead⟩

theorem inv_advance {s : State} (h : Inv s) : Inv s.advance :=
  ⟨h.memCanonical, h.latchesClear, h.causeListed, h.haltedStarted, h.entryZero, h.tickNotAhead⟩

/-- The stores of `BCD` and `STM` keep the canonical form, and nothing else writes memory. -/
theorem memCanonical_effectOf (i : Instr) {s : State} (h : Memory.wf s.config s.mem = true) :
    Memory.wf s.config (effectOf i s).mem = true := by
  by_cases hm : i.tag ∈ [Tag.bcd, Tag.stm]
  · cases i <;> simp only [Instr.tag, List.mem_cons, List.not_mem_nil, reduceCtorEq, or_self] at hm
    case bcd | stm => exact writeBytes_keeps_wf s _ _ h
  · rw [(effectOf_writesOnlyNamed i s).mem hm]
    exact h

/-- `CALL` pushes above `STACK[0]`, and nothing else writes the stack (R28). -/
theorem entryZero_effectOf {i : Instr} {s : State} (hh : haltOf i s = none) : (effectOf i s).stack[0] = s.stack[0] := by
  by_cases hcall : i.tag = Tag.call
  · cases i <;> simp only [Instr.tag, reduceCtorEq] at hcall
    have hsp : s.sp ≠ 15 := by simpa [haltOf] using hh
    have hpos : (s.sp + 1).toNat ≠ 0 := by bv_omega
    exact Vector.getElem_set_ne (s.sp + 1).isLt _ hpos
  · rw [(effectOf_writesOnlyNamed i s).stack hcall]

theorem inv_effectOf {i : Instr} {s : State} (hh : haltOf i s = none) (h : Inv s) : Inv (effectOf i s) where
  memCanonical := by rw [effectOf_config]; exact memCanonical_effectOf i h.memCanonical
  latchesClear := by simpa using h.latchesClear
  causeListed := by simpa using h.causeListed
  haltedStarted := by simpa using h.haltedStarted
  entryZero := (entryZero_effectOf hh).trans h.entryZero
  tickNotAhead := by simpa using h.tickNotAhead

theorem inv_cycle {e : Nat} {r : Byte} {s t : State} (h : Inv s) (ht : cycle e r s = .next t) : Inv t := by
  have hstart := inv_startCycle e r h
  obtain hraised | ⟨i, -, hh, rfl⟩ | rfl := cycle_cases ht
  · exact inv_of_raisedFrom hstart rfl hraised
  · exact inv_effectOf hh hstart
  · exact inv_advance hstart

theorem inv_hostLoad (image : List Byte) {s : State} (h : Inv s) : Inv (hostLoad image s) := by
  rw [hostLoad, writeBytes_frame]
  exact ⟨writeBytes_keeps_wf s _ _ h.memCanonical, h.latchesClear, h.causeListed, h.haltedStarted, h.entryZero,
    h.tickNotAhead⟩

/-- A reset gives the invariant whatever was before. -/
theorem inv_hostReset (s : State) : Inv (hostReset s) :=
  ⟨rfl, fun _ => ⟨rfl, rfl⟩, nofun, nofun, rfl, le_rfl⟩

/-- The other moves write nothing that the invariant speaks of. -/
theorem inv_keptByMoves : KeptByMoves Inv where
  script _ _ h := ⟨h.memCanonical, h.latchesClear, h.causeListed, h.haltedStarted, h.entryZero, h.tickNotAhead⟩
  free _ h := ⟨h.memCanonical, h.latchesClear, h.causeListed, h.haltedStarted, h.entryZero, h.tickNotAhead⟩
  cycle _ _ _ _ h := inv_cycle h
  keys _ _ h := ⟨h.memCanonical, h.latchesClear, h.causeListed, h.haltedStarted, h.entryZero, h.tickNotAhead⟩
  present _ h := ⟨h.memCanonical, h.latchesClear, h.causeListed, h.haltedStarted, h.entryZero, h.tickNotAhead⟩
  quit _ h := ⟨h.memCanonical, h.latchesClear, h.causeListed, h.haltedStarted, h.entryZero, h.tickNotAhead⟩
  load image _ h := inv_hostLoad image h
  reset s _ := inv_hostReset s

/-- Settles O20: each move a step can be made of keeps the invariant; a cycle does since the stores keep memory canonical,
`CALL` pushes above `STACK[0]`, and a halt writes a listed code after the cycle has begun. -/
theorem stepKeepsInvariant : Obligations.StepKeepsInvariant :=
  fun _ _ hs h => step_keeps inv_keptByMoves h hs

/-- Settles O21: a reset of the reset state is the reset state. -/
theorem resetStateHasInvariant : Obligations.ResetStateHasInvariant :=
  inv_hostReset State.reset

/-! ### Parameters and the time base (R7, R260) -/

/-- The parameters are `c` and the time base is at least `now`. -/
def ParamsAndTimeFrom (c : Config.Params) (now : Nat) (s : State) : Prop := s.config = c ∧ now ≤ s.world.nowUs

theorem paramsAndTimeFrom_cycle {c : Config.Params} {now e : Nat} {r : Byte} {s t : State}
    (h : ParamsAndTimeFrom c now s) (ht : cycle e r s = .next t) : ParamsAndTimeFrom c now t := by
  obtain ⟨hc, hnow⟩ := h
  have hlater : now ≤ s.world.nowUs + e := Nat.le_add_right_of_le hnow
  obtain ⟨code, info, -, -, rfl⟩ | ⟨i, -, -, rfl⟩ | rfl := cycle_cases ht
  · exact ⟨hc, hlater⟩
  · exact ⟨(effectOf_config i _).trans hc, by rw [effectOf_world]; exact hlater⟩
  · exact ⟨hc, hlater⟩

theorem paramsAndTimeFrom_keptByMoves (c : Config.Params) (now : Nat) : KeptByMoves (ParamsAndTimeFrom c now) where
  script _ _ h := h
  free _ h := h
  cycle _ _ _ _ := paramsAndTimeFrom_cycle
  keys _ _ h := h
  present _ h := h
  quit _ h := h
  load image s h := by rw [ParamsAndTimeFrom, hostLoad, writeBytes_config, writeBytes_world]; exact h
  reset _ h := h

/-- Settles O23: only a cycle moves the time base, forward, and no move writes the parameters. -/
theorem parametersStayAndTimeNeverRunsBack : Obligations.ParametersStayAndTimeNeverRunsBack :=
  fun s _ h => step_keeps (paramsAndTimeFrom_keptByMoves s.config s.world.nowUs) h ⟨rfl, le_rfl⟩

/-! ### A step answers next (R266, R272) -/

theorem whileRunning_answers_next {s : State} {what : Result} (hq : s.world.quit = false) (hw : ∃ t, what = .next t) :
    ∃ t, whileRunning s what = .next t := by
  obtain ⟨hq', -⟩ | ⟨-, -, hg⟩ | ⟨-, -, hg⟩ := whileRunning_cases s what
  · exact absurd (hq.symm.trans hq') (by decide)
  · exact ⟨s, hg⟩
  · rw [hg]
    exact hw

theorem hostLoadChecked_of_legal {image : List Byte} {s : State} (hstarted : s.world.started = false)
    (hlen : image.length ≤ 3584) : hostLoadChecked image s = .next (hostLoad image s) := by
  obtain ⟨hs, -⟩ | ⟨-, hl, -⟩ | ⟨-, -, h⟩ := hostLoadChecked_cases image s
  · exact absurd (hstarted.symm.trans hs) (by decide)
  · omega
  · exact h

/-- Settles O22: the guard lets the move through or changes nothing, a cycle answers next for every word, and a legal load
is not refused. -/
theorem everyStepAnswersNext : Obligations.EveryStepAnswersNext := by
  intro s hq hlegal
  cases hscript : s.world.script with
  | nil =>
    rw [step_of_no_script hscript]
    exact whileRunning_answers_next hq (cycle_answers_next _ _ _)
  | cons m rest =>
    rw [step_of_script hscript]
    cases m with
    | reset => exact ⟨_, rfl⟩
    | run e r => exact whileRunning_answers_next hq (cycle_answers_next e r _)
    | keys | present | quit => exact whileRunning_answers_next hq ⟨_, rfl⟩
    | load image =>
      obtain ⟨hstarted, hlen⟩ := hlegal image rest hscript
      exact whileRunning_answers_next hq ⟨_, hostLoadChecked_of_legal hstarted hlen⟩

end Sys2Proof.Machine
end

section
/-! SUPPORT. One step by what it finds: a running core, a halted core, an ended run, and each move of the host
(spec/40_decode_dispatch.md section 1, spec/60_exceptions.md sections 2 and 5, spec/70_reset_and_hazards.md). -/

namespace Sys2Proof.Machine

/-! ### The guard (R257, R270) -/

theorem whileRunning_of_running {s : State} (h : s.Running) (what : Result) : whileRunning s what = what := by
  simp [whileRunning, h.1, h.2]

theorem whileRunning_of_halted {s : State} (hh : s.halted = true) (hq : s.world.quit = false) (what : Result) :
    whileRunning s what = .next s := by
  simp [whileRunning, hh, hq]

theorem whileRunning_of_quit {s : State} (hq : s.world.quit = true) (what : Result) :
    whileRunning s what = .fault .runEnded := by
  simp [whileRunning, hq]

/-- Every move but a reset stands behind the guard (R266). -/
theorem performMove_guarded {m : HostMove} (hm : m ≠ .reset) (s : State) :
    ∃ what, performMove m s = whileRunning s what := by
  cases m with
  | reset => exact absurd rfl hm
  | run | keys | present | quit | load => exact ⟨_, rfl⟩

/-! ### Cycles (R120, R121) -/

/-- Settles O9: the guard lets the cycle of a running core through. -/
theorem stepOfARunningCoreIsOneCycle : Obligations.StepOfARunningCoreIsOneCycle := by
  refine fun s hrun => ⟨fun e r rest hscript => ?_, fun hscript => ?_⟩
  · rw [step_of_script hscript]
    exact whileRunning_of_running (s := s.withScript rest) hrun _
  · rw [step_of_no_script hscript]
    exact whileRunning_of_running hrun _

/-- A cycle with `pc` in range executes the word at `pc` (R66, R70). -/
theorem cycle_of_fetchable (e : Nat) (r : Byte) {s : State} (hlo : 0x200 ≤ s.pc.toNat) (hhi : s.pc.toNat ≤ 0xFFE) :
    cycle e r s = execWord s.fetchWord (startCycle e r s) := by
  rw [cycle, fetchExecute, fetchWord_startCycle]
  exact if_pos ((fetchable_iff s.pc).2 ⟨hlo, hhi⟩)

/-- A cycle with `pc` in range runs the instruction that the word at `pc` decodes to (R122, R123). -/
theorem cycle_of_decode (e : Nat) (r : Byte) {s : State} {i : Instr} (hlo : 0x200 ≤ s.pc.toNat)
    (hhi : s.pc.toNat ≤ 0xFFE) (hi : decode s.fetchWord = some i) : cycle e r s = exec i (startCycle e r s) := by
  rw [cycle_of_fetchable e r hlo hhi, execWord, hi]

/-- Settles O8: the step is one cycle, and that cycle runs the instruction at `pc`. -/
theorem stepRunsTheDecodedInstruction : Obligations.StepRunsTheDecodedInstruction := by
  intro s i hrun hlo hhi hi
  obtain ⟨hannounced, hfree⟩ := stepOfARunningCoreIsOneCycle s hrun
  refine ⟨fun e r rest hscript => (hannounced e r rest hscript).trans ?_, fun hscript => (hfree hscript).trans ?_⟩
  · exact cycle_of_decode (s := s.withScript rest) e r hlo hhi hi
  · exact cycle_of_decode (s := s.nextFree) _ _ hlo hhi hi

/-- Settles O11: the fetched word as a number, and the cycle that executes it. -/
theorem fetchIsBigEndian : Obligations.FetchIsBigEndian :=
  fun _ e r hlo hhi => ⟨toNat_wordOfBytes _ _, cycle_of_fetchable e r hlo hhi⟩

/-- Settles O12: the fetch check fails, so the cycle raises after its timer check. -/
theorem fetchOutOfRangeHalts : Obligations.FetchOutOfRangeHalts := by
  intro s e r hpc
  have hout : ¬fetchable s.pc = true := by
    rw [fetchable_iff]
    omega
  exact if_neg hout

/-! ### Halted cores and ended runs (R33, R257, R270) -/

/-- Settles O13: in a halted core the guard stops every move but a reset, which gives the reset values. -/
theorem haltedCoreChangesOnlyByReset : Obligations.HaltedCoreChangesOnlyByReset := by
  refine fun s hh hq => ⟨fun hscript => ?_, fun m rest hscript hm => ?_, fun rest hscript => ?_⟩
  · rw [step_of_no_script hscript]
    exact whileRunning_of_halted hh hq _
  · rw [step_of_script hscript]
    obtain ⟨what, hguard⟩ := performMove_guarded hm (s.withScript rest)
    rw [hguard]
    exact whileRunning_of_halted (s := s.withScript rest) hh hq what
  · exact ⟨_, step_of_script hscript, rfl, rfl, rfl, rfl⟩

/-- Settles O14: the guard lets both moves of a running core through. -/
theorem hostSetsKeysAndTakesFrames : Obligations.HostSetsKeysAndTakesFrames := by
  refine fun s rest hrun => ⟨fun d hscript => ?_, fun hscript => ?_⟩
  · rw [step_of_script hscript]
    exact whileRunning_of_running (s := s.withScript rest) hrun _
  · rw [step_of_script hscript]
    exact whileRunning_of_running (s := s.withScript rest) hrun _

/-- Settles O15: `quit` writes the mark, and the guard faults on the mark whatever the move, reset apart. -/
theorem quitEndsTheRun : Obligations.QuitEndsTheRun := by
  refine ⟨fun s rest hrun hscript => ?_, fun s hq hreset => ?_⟩
  · rw [step_of_script hscript]
    exact whileRunning_of_running (s := s.withScript rest) hrun _
  · cases hscript : s.world.script with
    | nil =>
      rw [step_of_no_script hscript]
      exact whileRunning_of_quit hq _
    | cons m rest =>
      rw [step_of_script hscript]
      have hm : m ≠ .reset := fun h => hreset rest (h ▸ hscript)
      obtain ⟨what, hguard⟩ := performMove_guarded hm (s.withScript rest)
      rw [hguard]
      exact whileRunning_of_quit (s := s.withScript rest) hq what

/-! ### The load port (R67, R267) -/

/-- A step of a running core with a load is the checked load. -/
theorem step_of_load {s : State} {image : List Byte} {rest : List HostMove} (hrun : s.Running)
    (hscript : s.world.script = .load image :: rest) : step s = hostLoadChecked image (s.withScript rest) := by
  rw [step_of_script hscript]
  exact whileRunning_of_running (s := s.withScript rest) hrun _

/-- Settles O17: the checked load refuses each by its name. -/
theorem illegalLoadsAreRefused : Obligations.IllegalLoadsAreRefused := by
  refine fun s image rest hrun hscript => ⟨fun hstarted => ?_, fun hstarted hlen => ?_⟩ <;>
    rw [step_of_load hrun hscript]
  · exact if_pos hstarted
  · have hnot : ¬(s.withScript rest).world.started = true := by simp [hstarted]
    rw [hostLoadChecked, if_neg hnot]
    exact if_pos hlen

/-- Inside the written block each byte reads as written (R65, R68). -/
theorem readByte_writeBytes_inside (s : State) {a k : Nat} {bs : List Byte} (h : a + bs.length ≤ 4096)
    (hk : k < bs.length) : (s.writeBytes a bs).readByte (a + k) = bs[k] := by
  rw [readByte_writeBytes _ _ _ _ h, if_pos (Nat.le_add_right _ _), Nat.add_sub_cancel_left, List.getD_eq_getElem _ _ hk]

theorem readByte_hostLoad_outside {s : State} {image : List Byte} {a : Nat}
    (ha : a < 0x200 ∨ 0x200 + image.length ≤ a) : (hostLoad image s).readByte a = s.readByte a :=
  readByte_writeBytes_outside s _ _ _ ha

/-- Settles O16: a legal load writes the image as one block; any other load is refused, and a refusal is no next state. -/
theorem loadPlacesTheRomImage : Obligations.LoadPlacesTheRomImage := by
  refine fun s image rest hrun hscript => ⟨fun hstarted hlen => ?_, fun hillegal t ht => ?_⟩
  · refine ⟨hostLoad image (s.withScript rest), ?_, fun j => readByte_writeBytes_inside _ (by omega),
      fun a => readByte_hostLoad_outside, fun hreset a ha => ?_, writeBytes_frame _ _ _⟩
    · rw [step_of_load hrun hscript]
      exact hostLoadChecked_of_legal hstarted hlen
    · rw [readByte_hostLoad_outside (.inr ha)]
      exact hreset.zero a (by omega)
  · obtain ⟨hlate, hlarge⟩ := illegalLoadsAreRefused s image rest hrun hscript
    cases hstarted : s.world.started with
    | true => simp [hlate hstarted] at ht
    | false => simp [hlarge hstarted (by simpa [hstarted] using hillegal)] at ht

/-! ### Reset (R38, R290) -/

/-- With no byte listed, memory reads as the font at 0x000 to 0x04F. -/
theorem resetByte_font (c : Config.Params) (g : Fin 16) (r : Fin 5) :
    Memory.resetByte c (5 * g.val + r.val) = c.fontRom[g][r] := by
  have hg : (5 * g.val + r.val) / 5 = g.val := by omega
  have hr : (5 * g.val + r.val) % 5 = r.val := by omega
  rw [Memory.resetByte, dif_pos (by omega)]
  simp only [hg, hr, Fin.getElem_fin]

/-- With no byte listed, memory reads as 0 from 0x050 on. -/
theorem resetByte_zero (c : Config.Params) {a : Nat} (ha : 0x50 ≤ a) : Memory.resetByte c a = 0 :=
  dif_neg (by omega)

/-- A reset gives every piece of the core's state its reset value, from every state (R290). -/
theorem atReset_hostReset (s : State) : AtReset (hostReset s) s.world.nowUs where
  regs x := Vector.getElem_replicate x.isLt
  index := rfl
  pc := rfl
  timers := ⟨rfl, rfl⟩
  stack k := Vector.getElem_replicate k.isLt
  sp := rfl
  font g r := resetByte_font s.config g r
  zero _ ha := resetByte_zero s.config ha
  frame px py := pixel_blank px py
  keys k := Vector.getElem_replicate k.isLt
  redraw := rfl
  latches := ⟨rfl, rfl, rfl⟩
  tick := rfl

/-- Settles O18: a reset passes the guard by, so a step with one gives the reset values from every state. -/
theorem hostResetGivesResetValues : Obligations.HostResetGivesResetValues :=
  fun s rest hscript => ⟨hostReset (s.withScript rest), step_of_script hscript, atReset_hostReset _, rfl, rfl⟩

/-- Settles O19: a reset of the reset state is the reset state. -/
theorem resetStateHoldsTheResetValues : Obligations.ResetStateHoldsTheResetValues :=
  atReset_hostReset State.reset

end Sys2Proof.Machine
end

section
/-! SUPPORT. The timers over one check, one cycle and any number of checks (spec/60_exceptions.md section 4). -/

namespace Sys2Proof.Machine

/-! ### One check (R261, R263) -/

theorem tickDue_iff (e : Nat) (r : Byte) (s : State) : (sampleInputs e r s).tickDue = true ↔ TickFallsDue e s :=
  tickDue_sampleInputs e r s

theorem toNat_dt_startCycle (e : Nat) (r : Byte) (s : State) :
    (startCycle e r s).dt.toNat = if (sampleInputs e r s).tickDue then s.dt.toNat - 1 else s.dt.toNat :=
  countDown_toNat _ _

theorem toNat_st_startCycle (e : Nat) (r : Byte) (s : State) :
    (startCycle e r s).st.toNat = if (sampleInputs e r s).tickDue then s.st.toNat - 1 else s.st.toNat :=
  countDown_toNat _ _

/-- A check that finds no tick due leaves a timer alone. -/
theorem countDown_false (t : Byte) : countDown t false = t :=
  BitVec.eq_of_toNat_eq (countDown_toNat t false)

/-- Settles O58: both timers, the stamp and `beep` turn on the one test whether a tick is due. -/
theorem timerCheckCountsDownOncePerDueTick : Obligations.TimerCheckCountsDownOncePerDueTick := by
  refine fun e r s => ⟨startCycle e r s, rfl, fun hdue => ?_, fun hnot => ?_, rfl⟩
  · rw [← tickDue_iff e r] at hdue
    rw [toNat_dt_startCycle, toNat_st_startCycle, if_pos hdue, if_pos hdue]
    refine ⟨rfl, rfl, if_pos hdue, ?_⟩
    simp [hdue]
  · rw [← tickDue_iff e r, Bool.not_eq_true] at hnot
    simp [hnot, countDown_false]

/-! ### One cycle (R297) -/

/-- A count down is by at most one. -/
theorem countDown_bounds (t : Byte) (due : Bool) :
    (countDown t due).toNat ≤ t.toNat ∧ t.toNat ≤ (countDown t due).toNat + 1 := by
  rw [countDown_toNat]
  split <;> omega

/-- A cycle that does not run `SETDT` leaves `DT` as the timer check left it. -/
theorem dt_cycle {e : Nat} {r : Byte} {s t : State} (h : cycle e r s = .next t)
    (hword : ∀ x, decode s.fetchWord ≠ some (.setdt x)) : t.dt = (startCycle e r s).dt := by
  obtain ⟨code, info, -, -, rfl⟩ | ⟨i, hi, -, rfl⟩ | rfl := cycle_cases h
  · rfl
  · refine (effectOf_writesOnlyNamed i _).dt fun htag => ?_
    cases i <;> simp only [Instr.tag, reduceCtorEq] at htag
    exact hword _ hi
  · rfl

/-- A cycle that does not run `SETST` leaves `ST` as the timer check left it. -/
theorem st_cycle {e : Nat} {r : Byte} {s t : State} (h : cycle e r s = .next t)
    (hword : ∀ x, decode s.fetchWord ≠ some (.setst x)) : t.st = (startCycle e r s).st := by
  obtain ⟨code, info, -, -, rfl⟩ | ⟨i, hi, -, rfl⟩ | rfl := cycle_cases h
  · rfl
  · refine (effectOf_writesOnlyNamed i _).st fun htag => ?_
    cases i <;> simp only [Instr.tag, reduceCtorEq] at htag
    exact hword _ hi
  · rfl

/-- Settles O59: but for the two setters a cycle changes a timer in its timer check alone, which counts down by at most
one. -/
theorem timersOnlyCountDownByThemselves : Obligations.TimersOnlyCountDownByThemselves := by
  refine fun e r s t h => ⟨fun hword => ?_, fun hword => ?_⟩
  · rw [dt_cycle h hword]
    exact countDown_bounds _ _
  · rw [st_cycle h hword]
    exact countDown_bounds _ _

/-! ### Many checks (R262) -/

/-- A due check counts, and the count goes on from its reading. -/
theorem dueChecks_of_due {e : Nat} {s : State} (h : TickFallsDue e s) (es : List Nat) :
    dueChecks s.config.tickPeriodUs s.lastTick s.world.nowUs (e :: es) =
      dueChecks s.config.tickPeriodUs (s.world.nowUs + e) (s.world.nowUs + e) es + 1 :=
  if_pos h

/-- A check that is not due leaves the stamp. -/
theorem dueChecks_of_not_due {e : Nat} {s : State} (h : ¬TickFallsDue e s) (es : List Nat) :
    dueChecks s.config.tickPeriodUs s.lastTick s.world.nowUs (e :: es) =
      dueChecks s.config.tickPeriodUs s.lastTick (s.world.nowUs + e) es :=
  if_neg h

/-- Settles O60: by induction on the checks; each takes one from both timers and the due count if a tick is due, and hands
on the stamp and the reading that the count goes on with. -/
theorem timersRunDownByDueChecks : Obligations.TimersRunDownByDueChecks := by
  intro s es
  induction es generalizing s with
  | nil => exact ⟨rfl, rfl⟩
  | cons e es ih =>
    obtain ⟨t, rfl, hdue, hnot, -⟩ := timerCheckCountsDownOncePerDueTick e 0 s
    have hnow : (startCycle e 0 s).world.nowUs = s.world.nowUs + e := rfl
    have hconfig : (startCycle e 0 s).config = s.config := rfl
    obtain ⟨ihdt, ihst⟩ := ih (startCycle e 0 s)
    rw [timerChecks, ihdt, ihst, hnow, hconfig]
    by_cases h : TickFallsDue e s
    · obtain ⟨hdt, hst, hlast, -⟩ := hdue h
      rw [dueChecks_of_due h, hdt, hst, hlast, Nat.sub_sub, Nat.sub_sub, Nat.add_comm]
      exact ⟨rfl, rfl⟩
    · obtain ⟨hdt, hst, hlast, -⟩ := hnot h
      rw [dueChecks_of_not_due h, hdt, hst, hlast]
      exact ⟨rfl, rfl⟩

end Sys2Proof.Machine
end

section
/-! SUPPORT. The register operations that compute a value, with and without a flag (spec/42_alu.md), and `GETDT` and the
timer setters (spec/45_keys_timers.md section 3). -/

namespace Sys2Proof.Machine

/-! ### One register written, no flag (R174) -/

/-- Writing one register and advancing: the value, the next `pc` and the frame. -/
theorem setV_advance_spec (s : State) (x : Nibble) (b : Byte) :
    (s.setV x b).advance.getV x = b ∧ (s.setV x b).advance.pc = s.pc + 2 ∧
      OnlyRegsChanged s (s.setV x b).advance [x] :=
  ⟨getV_setV_same s x b, rfl, onlyRegsChanged_setV_advance s x b⟩

/-- Settles O30: `ADDI` is one write of `V[x]`, and a byte sum is modulo 256. -/
theorem addiAddsWithoutFlag : Obligations.AddiAddsWithoutFlag := by
  refine ⟨rowDecodes_of_mem (r := ⟨.addi, 0x7000, 0xF000⟩) (by decide) fun _ => rfl, fun x kk s => ?_⟩
  obtain ⟨hval, hpc, hframe⟩ := setV_advance_spec s x (s.getV x + kk)
  exact ⟨_, rfl, by rw [hval, BitVec.toNat_add], hpc, hframe⟩

/-- Settles O31: each is one write of `V[x]`, and the bitwise operations act bit by bit. -/
theorem movOrAndXorAreBitwise : Obligations.MovOrAndXorAreBitwise := by
  refine ⟨rowDecodes_of_mem (r := ⟨.mov, 0x8000, 0xF00F⟩) (by decide) fun _ => rfl,
    rowDecodes_of_mem (r := ⟨.or, 0x8001, 0xF00F⟩) (by decide) fun _ => rfl,
    rowDecodes_of_mem (r := ⟨.and, 0x8002, 0xF00F⟩) (by decide) fun _ => rfl,
    rowDecodes_of_mem (r := ⟨.xor, 0x8003, 0xF00F⟩) (by decide) fun _ => rfl,
    fun x y s => ⟨⟨_, rfl, setV_advance_spec s x _⟩, ?or, ?and, ?xor⟩⟩
  case or =>
    obtain ⟨hval, hpc, hframe⟩ := setV_advance_spec s x (s.getV x ||| s.getV y)
    exact ⟨_, rfl, fun k _ => by rw [hval, BitVec.getLsbD_or], hpc, hframe⟩
  case and =>
    obtain ⟨hval, hpc, hframe⟩ := setV_advance_spec s x (s.getV x &&& s.getV y)
    exact ⟨_, rfl, fun k _ => by rw [hval, BitVec.getLsbD_and], hpc, hframe⟩
  case xor =>
    obtain ⟨hval, hpc, hframe⟩ := setV_advance_spec s x (s.getV x ^^^ s.getV y)
    exact ⟨_, rfl, fun k _ => by rw [hval, BitVec.getLsbD_xor], hpc, hframe⟩

/-- Settles O35: `RND` is one write of `V[x]`; a cycle's sampling puts the port's byte where `RND` reads it. -/
theorem rndMasksTheRandomByte : Obligations.RndMasksTheRandomByte := by
  refine ⟨rowDecodes_of_mem (r := ⟨.rnd, 0xC000, 0xF000⟩) (by decide) fun _ => rfl, fun x kk s => ?_⟩
  obtain ⟨hval, hpc, hframe⟩ := setV_advance_spec s x (s.world.randByte &&& kk)
  exact ⟨_, rfl, hval, fun _ _ => rfl, hpc, hframe⟩

/-- Settles O57: `GETDT` is one write of `V[x]`; the setters write one timer and advance, which is all they do. -/
theorem timerAccessesCopyTheTimers : Obligations.TimerAccessesCopyTheTimers :=
  ⟨rowDecodes_of_mem (r := ⟨.getdt, 0xF007, 0xF0FF⟩) (by decide) fun _ => rfl,
    rowDecodes_of_mem (r := ⟨.setdt, 0xF015, 0xF0FF⟩) (by decide) fun _ => rfl,
    rowDecodes_of_mem (r := ⟨.setst, 0xF018, 0xF0FF⟩) (by decide) fun _ => rfl,
    fun x s => ⟨⟨_, rfl, setV_advance_spec s x s.dt⟩, rfl, rfl⟩⟩

/-! ### Result and flag (R173, R176) -/

/-- Result, then flag, then advance: the result stays unless `x` is 15, the flag always does. -/
theorem setResultFlag_advance_spec (s : State) (x : Nibble) (r : Byte) (f : Bool) :
    (x ≠ 15 → (s.setResultFlag x r f).advance.getV x = r) ∧
      (s.setResultFlag x r f).advance.getV 15 = flagByte f ∧
      (s.setResultFlag x r f).advance.pc = s.pc + 2 ∧
      OnlyRegsChanged s (s.setResultFlag x r f).advance [x, 15] := by
  refine ⟨fun hx => ?_, ?_, rfl, rfl, fun j hj => ?_, fun _ => rfl⟩
  · rw [getV_advance, getV_setResultFlag, if_neg hx, if_pos rfl]
  · rw [getV_advance, getV_setResultFlag, if_pos rfl]
  · simp only [List.mem_cons, List.not_mem_nil, or_false, not_or] at hj
    rw [getV_advance, getV_setResultFlag, if_neg hj.2, if_neg hj.1]

/-- A flag that tests a proposition is the byte 1 or 0 by it. -/
theorem flagByte_decide (P : Prop) [Decidable P] : flagByte (decide P) = if P then 1 else 0 := by
  simp [flagByte]

/-- Settles O32: result then flag, the result a sum modulo 256 and the flag the test of the unclamped sum. -/
theorem addWritesSumThenCarry : Obligations.AddWritesSumThenCarry := by
  refine ⟨rowDecodes_of_mem (r := ⟨.add, 0x8004, 0xF00F⟩) (by decide) fun _ => rfl, fun x y s => ?_⟩
  obtain ⟨hres, hflag, hpc, hframe⟩ :=
    setResultFlag_advance_spec s x (s.getV x + s.getV y) (carryOut (s.getV x) (s.getV y))
  exact ⟨_, rfl, fun hx => by rw [hres hx, BitVec.toNat_add], hflag.trans (flagByte_decide _), hpc, hframe⟩

/-- A byte difference as a number. -/
theorem toNat_sub_byte (a b : Byte) : (a - b).toNat = (a.toNat + 256 - b.toNat) % 256 := by
  have hb := b.isLt
  rw [BitVec.toNat_sub]
  omega

/-- Settles O33: result then flag, the result a difference modulo 256 and the flag the strict comparison. -/
theorem subAndSubnWriteDifferenceThenNotBorrow : Obligations.SubAndSubnWriteDifferenceThenNotBorrow := by
  refine ⟨rowDecodes_of_mem (r := ⟨.sub, 0x8005, 0xF00F⟩) (by decide) fun _ => rfl,
    rowDecodes_of_mem (r := ⟨.subn, 0x8007, 0xF00F⟩) (by decide) fun _ => rfl, fun x y s => ⟨?sub, ?subn⟩⟩
  case sub =>
    obtain ⟨hres, hflag, hpc, hframe⟩ :=
      setResultFlag_advance_spec s x (s.getV x - s.getV y) (notBorrow (s.getV x) (s.getV y))
    exact ⟨_, rfl, fun hx => by rw [hres hx, toNat_sub_byte], hflag.trans (flagByte_decide _), hpc, hframe⟩
  case subn =>
    obtain ⟨hres, hflag, hpc, hframe⟩ :=
      setResultFlag_advance_spec s x (s.getV y - s.getV x) (notBorrow (s.getV y) (s.getV x))
    exact ⟨_, rfl, fun hx => by rw [hres hx, toNat_sub_byte], hflag.trans (flagByte_decide _), hpc, hframe⟩

/-- Bit `k` of a byte as a flag byte (R168, R170). -/
theorem toNat_flagByte_getLsbD (b : Byte) (k : Nat) : (flagByte (b.getLsbD k)).toNat = b.toNat / 2 ^ k % 2 := by
  rw [BitVec.getLsbD, Nat.testBit_eq_decide_div_mod_eq, flagByte_decide]
  split <;> simp <;> omega

/-- Settles O34: result then flag, for every `y` as the executor is not given it; the flag is the bit shifted out. -/
theorem shiftsWriteResultThenBitShiftedOut : Obligations.ShiftsWriteResultThenBitShiftedOut := by
  refine ⟨rowDecodes_of_mem (r := ⟨.shr, 0x8006, 0xF00F⟩) (by decide) fun _ => rfl,
    rowDecodes_of_mem (r := ⟨.shl, 0x800E, 0xF00F⟩) (by decide) fun _ => rfl, fun x y s => ⟨?shr, ?shl⟩⟩
  case shr =>
    obtain ⟨hres, hflag, hpc, hframe⟩ := setResultFlag_advance_spec s x (s.getV x >>> 1) (lowBitOut (s.getV x))
    refine ⟨_, rfl, fun hx => ?_, ?_, hpc, hframe⟩
    · rw [hres hx, BitVec.toNat_ushiftRight, Nat.shiftRight_one]
    · rw [hflag, lowBitOut, toNat_flagByte_getLsbD, Nat.pow_zero, Nat.div_one]
  case shl =>
    obtain ⟨hres, hflag, hpc, hframe⟩ := setResultFlag_advance_spec s x (s.getV x <<< 1) (highBitOut (s.getV x))
    refine ⟨_, rfl, fun hx => ?_, ?_, hpc, hframe⟩
    · rw [hres hx, BitVec.toNat_shiftLeft, Nat.shiftLeft_eq, Nat.pow_one]
    · have hlt := (s.getV x).isLt
      rw [hflag, highBitOut, toNat_flagByte_getLsbD]
      omega

end Sys2Proof.Machine
end

section
/-! SUPPORT. The stack instructions (spec/41_control_flow.md section 2). -/

namespace Sys2Proof.Machine

theorem toNat_sp_succ {sp : Nibble} (h : sp ≠ 15) : (sp + 1).toNat = sp.toNat + 1 := by
  bv_omega

/-- A push below the top writes the entry above the old top and no other (R28, R142). -/
theorem stack_pushReturn {s : State} (h : s.sp ≠ 15) (ret : Word) (k : Fin 16) :
    (s.pushReturn ret).stack[k] = if k.val = s.sp.toNat + 1 then ret else s.stack[k] := by
  simp only [State.pushReturn, Fin.getElem_fin, Vector.getElem_set, toNat_sp_succ h, eq_comm]

/-- Settles O38: below the top `CALL` is a push and a jump, at the top it raises. -/
theorem callPushesAndJumps : Obligations.CallPushesAndJumps := by
  refine ⟨rowDecodes_of_mem (r := ⟨.call, 0x2000, 0xF000⟩) (by decide) fun _ => rfl,
    fun nnn s => ⟨fun hsp => ?_, fun hsp => execCall_at_top nnn hsp⟩⟩
  exact ⟨_, execCall_below_top nnn hsp, toNat_zextAddr nnn, toNat_sp_succ hsp, stack_pushReturn hsp _, rfl, fun _ => rfl⟩

/-- Settles O39: on a stack that is not empty `RET` reads the top entry and decrements `SP`, on an empty one it raises. -/
theorem retPopsTheReturnAddress : Obligations.RetPopsTheReturnAddress := by
  refine ⟨rowDecodes_of_mem (r := ⟨.ret, 0x00EE, 0xF0FF⟩) (by decide) fun _ => rfl,
    fun x s => ⟨fun hsp => ?_, fun hsp => execRet_empty hsp⟩⟩
  have hdec : (s.sp - 1).toNat + 1 = s.sp.toNat := by bv_omega
  exact ⟨_, execRet_not_empty hsp, rfl, hdec, rfl, fun _ => rfl⟩

/-- Settles O40: after the push `SP` is not 0, its entry is `pc + 2`, and the decrement undoes the increment. -/
theorem callThenRetReturnsBehindTheCall : Obligations.CallThenRetReturnsBehindTheCall := by
  intro nnn x s hsp
  have hpushed : s.sp + 1 ≠ 0 := by bv_omega
  refine ⟨_, _, execCall_below_top nnn hsp, execRet_not_empty hpushed, stackTop_pushReturn s _, ?_, fun k hk => ?_, ?_⟩
  · exact BitVec.add_sub_cancel s.sp 1
  · exact (stack_pushReturn hsp _ k).trans (if_neg hk)
  · have hsp' : s.sp + 1 - 1 = s.sp := BitVec.add_sub_cancel s.sp 1
    simp only [State.dropReturn, State.setPc, State.pushReturn, hsp']

end Sys2Proof.Machine
end

section
/-! SUPPORT. The index register, and the instructions that access memory at `I` (spec/43_index_memory.md,
spec/20_memory.md). -/

namespace Sys2Proof.Machine

/-! ### The index register (R191, R192) -/

/-- The whole byte times 5 fits 16 bits (R192). -/
theorem toNat_zextByte_mul_five (b : Byte) : (zextByte b * 5).toNat = b.toNat * 5 := by
  have hb := b.isLt
  rw [BitVec.toNat_mul, toNat_zextByte]
  exact Nat.mod_eq_of_lt (by simp; omega)

/-- Settles O44: both are one write of `I`; the sum is modulo 65536, and the product fits. -/
theorem iaddWrapsAndFontMultiplies : Obligations.IaddWrapsAndFontMultiplies := by
  refine ⟨rowDecodes_of_mem (r := ⟨.iadd, 0xF01E, 0xF0FF⟩) (by decide) fun _ => rfl,
    rowDecodes_of_mem (r := ⟨.font, 0xF029, 0xF0FF⟩) (by decide) fun _ => rfl, fun x s => ⟨?iadd, ?font⟩⟩
  case iadd =>
    have hval : (s.i + zextByte (s.getV x)).toNat = (s.i.toNat + (s.getV x).toNat) % 65536 := by
      rw [BitVec.toNat_add, toNat_zextByte]
    exact ⟨_, rfl, hval, rfl, setI_advance_frame s _⟩
  case font => exact ⟨_, rfl, toNat_zextByte_mul_five _, rfl, setI_advance_frame s _⟩

/-! ### Single bytes (R65) -/

/-- Settles O50: reading after the write, at the address and elsewhere. -/
theorem writtenByteIsReadBack : Obligations.WrittenByteIsReadBack := by
  refine fun s a b ha => ⟨?_, fun k hk => readByte_writeByte_ne s b hk, rfl⟩
  rw [readByte_writeByte s a a b (by omega), if_pos rfl]

/-! ### Blocks at `I` (R193, R194, R196) -/

/-- Storing a block and advancing changes the block's bytes and `pc` alone. -/
theorem onlyBytesChanged_writeBytes_advance (s : State) (a : Nat) (bs : List Byte) :
    OnlyBytesChanged s (s.writeBytes a bs).advance a bs.length := by
  refine ⟨?_, fun b hb => readByte_writeBytes_outside s a bs b hb⟩
  rw [writeBytes_advance_frame]

/-- `BCD` in range stores the three digits (R193). -/
theorem exec_bcd_in_range (x : Nibble) {s : State} (h : s.i.toNat + 2 ≤ 4095) :
    exec (.bcd x) s = .next (s.writeBytes (s.effAddr 0) (bcdDigits (s.getV x))).advance :=
  withMemCheck_in_range (.inr (by omega)) _

/-- `STM` in range stores the register block (R196). -/
theorem exec_stm_in_range {x : Nibble} {s : State} (h : s.i.toNat + x.toNat ≤ 4095) :
    exec (.stm x) s = .next (s.writeBytes (s.effAddr 0) (s.regBlock x)).advance :=
  withMemCheck_in_range (.inr (by omega)) _

/-- `LDM` in range loads the block at `I` (R197). -/
theorem exec_ldm_in_range {x : Nibble} {s : State} (h : s.i.toNat + x.toNat ≤ 4095) :
    exec (.ldm x) s = .next (s.setVs (s.bytesAtI (x.toNat + 1))).advance :=
  withMemCheck_in_range (.inr (by omega)) _

/-- Each digit after a `BCD` in range (R193). -/
theorem readByte_bcd (x : Nibble) {s : State} (h : s.i.toNat + 2 ≤ 4095) {k : Nat} (hk : k < 3) :
    (s.writeBytes (s.effAddr 0) (bcdDigits (s.getV x))).readByte (s.effAddr k) = (bcdDigits (s.getV x))[k] :=
  readByte_writeBytes_inside s (by simp only [State.effAddr, length_bcdDigits]; omega) hk

/-- Each register's byte after an `STM` in range (R196). -/
theorem readByte_stm {x k : Nibble} {s : State} (h : s.i.toNat + x.toNat ≤ 4095) (hk : k.toNat ≤ x.toNat) :
    (s.writeBytes (s.effAddr 0) (s.regBlock x)).readByte (s.effAddr k.toNat) = s.getV k := by
  have hfits : s.effAddr 0 + (s.regBlock x).length ≤ 4096 := by
    simp only [State.effAddr, length_regBlock]
    omega
  have hlt : k.toNat < (s.regBlock x).length := by
    rw [length_regBlock]
    omega
  rw [← getD_regBlock s hk 0, List.getD_eq_getElem _ _ hlt]
  exact readByte_writeBytes_inside s hfits hlt

/-- Each register after an `LDM` in range: loaded up to `V[x]`, kept above (R197). -/
theorem getV_ldm (x k : Nibble) (s : State) :
    (s.setVs (s.bytesAtI (x.toNat + 1))).getV k =
      if k.toNat ≤ x.toNat then s.readByte (s.effAddr k.toNat) else s.getV k := by
  rw [getV_setVs]
  split
  · exact getD_bytesAtI s (by omega) _
  · exact getD_bytesAtI_of_le s (by omega) _

/-- Out of range `BCD` raises (R194, R254). -/
theorem exec_bcd_out_of_range (x : Nibble) {s : State} (h : 4095 < s.i.toNat + 2) :
    exec (.bcd x) s = .next { s with halted := true, haltCause := 4, haltInfo := s.i } :=
  exec_of_haltOf_eq_some (by rw [haltOf, if_pos h])

/-- Out of range `STM` raises (R194, R254). -/
theorem exec_stm_out_of_range {x : Nibble} {s : State} (h : 4095 < s.i.toNat + x.toNat) :
    exec (.stm x) s = .next { s with halted := true, haltCause := 4, haltInfo := s.i } :=
  exec_of_haltOf_eq_some (by rw [haltOf, if_pos h])

/-- Out of range `LDM` raises (R194, R254). -/
theorem exec_ldm_out_of_range {x : Nibble} {s : State} (h : 4095 < s.i.toNat + x.toNat) :
    exec (.ldm x) s = .next { s with halted := true, haltCause := 4, haltInfo := s.i } :=
  exec_of_haltOf_eq_some (by rw [haltOf, if_pos h])

/-- The three digits as numbers (R193). -/
theorem toNat_bcdDigits (b : Byte) : (bcdDigits b)[0].toNat = b.toNat / 100 ∧ (bcdDigits b)[1].toNat = b.toNat / 10 % 10 ∧
    (bcdDigits b)[2].toNat = b.toNat % 10 := by
  have hb := b.isLt
  simp only [bcdDigits, List.getElem_cons_zero, List.getElem_cons_succ, BitVec.toNat_ofNat]
  omega

/-- Settles O45: in range the three digits are stored as one block, out of range the check raises. -/
theorem bcdStoresThreeDigits : Obligations.BcdStoresThreeDigits := by
  refine ⟨rowDecodes_of_mem (r := ⟨.bcd, 0xF033, 0xF0FF⟩) (by decide) fun _ => rfl,
    fun x s => ⟨fun h => ?_, exec_bcd_out_of_range x⟩⟩
  obtain ⟨hhundreds, htens, hones⟩ := toNat_bcdDigits (s.getV x)
  refine ⟨_, exec_bcd_in_range x h, ?_, ?_, ?_, congrArg (· + 2) (writeBytes_pc _ _ _),
    onlyBytesChanged_writeBytes_advance s _ _⟩
  · rw [readByte_advance, readByte_bcd x h (by decide), hhundreds]
  · rw [readByte_advance, readByte_bcd x h (by decide), htens]
  · rw [readByte_advance, readByte_bcd x h (by decide), hones]

/-- Settles O46: in range the register block is stored as one block, out of range the check raises. -/
theorem stmStoresTheRegisterBlock : Obligations.StmStoresTheRegisterBlock := by
  refine ⟨rowDecodes_of_mem (r := ⟨.stm, 0xF055, 0xF0FF⟩) (by decide) fun _ => rfl, fun x s => ⟨fun h => ?_, ?_⟩⟩
  · have hframe := onlyBytesChanged_writeBytes_advance s (s.effAddr 0) (s.regBlock x)
    rw [length_regBlock] at hframe
    refine ⟨_, exec_stm_in_range h, fun k hk => ?_, congrArg (· + 2) (writeBytes_pc _ _ _), hframe⟩
    rw [readByte_advance, readByte_stm h hk]
  · exact exec_stm_out_of_range

/-- Settles O47: in range the registers up to `V[x]` are loaded at once, out of range the check raises. -/
theorem ldmLoadsTheRegisterBlock : Obligations.LdmLoadsTheRegisterBlock := by
  refine ⟨rowDecodes_of_mem (r := ⟨.ldm, 0xF065, 0xF0FF⟩) (by decide) fun _ => rfl,
    fun x s => ⟨fun h => ?_, exec_ldm_out_of_range⟩⟩
  obtain ⟨hpc, hframe, hmem⟩ := setVs_advance_frame s (s.bytesAtI (x.toNat + 1))
  refine ⟨_, exec_ldm_in_range h, fun k => ?_, hpc, hframe, hmem⟩
  rw [getV_advance, getV_ldm]

/-! ### Stores seen by later reads (R196, R66) -/

/-- Settles O48: the `LDM` reads the addresses the `STM` stored to, as the `STM` leaves `I` alone and the registers in
between are no part of memory. -/
theorem ldmReadsBackWhatStmStored : Obligations.LdmReadsBackWhatStmStored := by
  intro x s v h
  obtain ⟨t, ht, hstored, -, hframe, -⟩ := (stmStoresTheRegisterBlock.2 x s).1 h
  have hi : t.i = s.i := by rw [hframe]
  obtain ⟨u, hu, hloaded, -, huframe, -⟩ := (ldmLoadsTheRegisterBlock.2 x { t with v := v }).1 (by rw [hi]; exact h)
  refine ⟨t, u, ht, hu, fun k hk => ?_, ?_, ?_⟩
  · rw [hloaded k, if_pos hk, ← hstored k hk]
    simp only [State.effAddr, hi]
    rfl
  · rw [huframe]
    exact hi
  · rw [huframe]

/-- Settles O49: the two bytes of the word are two neighbouring bytes of the stored block. -/
theorem storesAreSeenByTheNextFetch : Obligations.StoresAreSeenByTheNextFetch := by
  refine fun x k s pc => ⟨fun h hk hpc => ?stm, fun h hpc => ?bcd⟩
  case stm =>
    obtain ⟨t, ht, hstored, -⟩ := (stmStoresTheRegisterBlock.2 x s).1 h
    have hsucc : (k + 1).toNat = k.toNat + 1 := by bv_omega
    have hnext : pc.toNat + 1 = s.effAddr (k + 1).toNat := by
      rw [hpc, hsucc]
      rfl
    refine ⟨t, ht, ?_⟩
    rw [State.fetchWord, readByte_setPc, readByte_setPc, setPc_pc, hnext, hpc, hstored k hk.le, hstored (k + 1) (by omega)]
  case bcd =>
    obtain ⟨t, ht, -, htens, hones, -⟩ := (bcdStoresThreeDigits.2 x s).1 h
    have hnext : pc.toNat + 1 = s.effAddr 2 := by
      rw [hpc]
      rfl
    refine ⟨t, ht, ?_⟩
    rw [State.fetchWord, toNat_wordOfBytes, readByte_setPc, readByte_setPc, setPc_pc, hnext, hpc, htens, hones]

/-! ### The canonical form (log 22) -/

/-- A listed byte differs from what an unlisted address reads as. -/
theorem lookup_ne_resetByte {c : Config.Params} {lo a : Nat} {m : Memory} {b : Byte}
    (h : Memory.wfFrom c lo m = true) (hb : Memory.lookup m a = some b) : b ≠ Memory.resetByte c a := by
  induction m generalizing lo with
  | nil => simp [Memory.lookup] at hb
  | cons e m ih =>
    obtain ⟨k, v⟩ := e
    simp only [Memory.wfFrom, Bool.and_eq_true, Bool.not_eq_true', beq_eq_false_iff_ne] at h
    obtain ⟨⟨-, hv⟩, hm⟩ := h
    rw [Memory.lookup] at hb
    split at hb
    · next ha =>
      cases hb
      exact ha ▸ hv
    · exact ih hm hb

/-- In canonical form what an address reads as fixes whether and as what it is listed. -/
theorem lookup_eq_of_read_eq {c : Config.Params} {m m' : Memory} (h : Memory.wf c m = true) (h' : Memory.wf c m' = true)
    {a : Nat} (hread : Memory.read c m a = Memory.read c m' a) : Memory.lookup m a = Memory.lookup m' a := by
  rw [Memory.read, Memory.read] at hread
  cases hl : Memory.lookup m a with
  | none =>
    cases hl' : Memory.lookup m' a with
    | none => rfl
    | some b' => exact absurd (by simpa [hl, hl'] using hread.symm) (lookup_ne_resetByte h' hl')
  | some b =>
    cases hl' : Memory.lookup m' a with
    | none => exact absurd (by simpa [hl, hl'] using hread) (lookup_ne_resetByte h hl)
    | some b' => simpa [hl, hl'] using hread

/-- The first entry of a list in canonical form, by what it lists. -/
theorem lookup_cons_self (k : Nat) (b : Byte) (m : Memory) : Memory.lookup ((k, b) :: m) k = some b :=
  if_pos rfl

/-- Rising lists that list the same bytes are equal. -/
theorem eq_of_lookup_eq {c : Config.Params} {lo lo' : Nat} {m m' : Memory} (h : Memory.wfFrom c lo m = true)
    (h' : Memory.wfFrom c lo' m' = true) (hl : ∀ a, Memory.lookup m a = Memory.lookup m' a) : m = m' := by
  induction m generalizing lo lo' m' with
  | nil =>
    cases m' with
    | nil => rfl
    | cons e' m' => exact absurd (hl e'.1) (by simp [Memory.lookup])
  | cons e m ih =>
    obtain ⟨k, b⟩ := e
    cases m' with
    | nil => exact absurd (hl k) (by simp [Memory.lookup])
    | cons e' m' =>
      obtain ⟨k', b'⟩ := e'
      simp only [Memory.wfFrom, Bool.and_eq_true] at h h'
      have hm := h.2
      have hm' := h'.2
      have hk : k = k' := by
        rcases Nat.lt_trichotomy k k' with hlt | heq | hgt
        · have := hl k
          rw [lookup_cons_self, Memory.lookup, if_neg hlt.ne, lookup_of_lt c _ _ _ hm' (by omega)] at this
          cases this
        · exact heq
        · have := hl k'
          rw [lookup_cons_self, Memory.lookup, if_neg hgt.ne, lookup_of_lt c _ _ _ hm (by omega)] at this
          cases this
      subst hk
      have hb : b = b' := by simpa [Memory.lookup] using hl k
      subst hb
      have htail : ∀ a, Memory.lookup m a = Memory.lookup m' a := by
        intro a
        by_cases ha : a = k
        · rw [ha, lookup_of_lt c _ _ _ hm (Nat.lt_succ_self k), lookup_of_lt c _ _ _ hm' (Nat.lt_succ_self k)]
        · simpa [Memory.lookup, ha] using hl a
      rw [ih hm hm' htail]

/-- Settles O51: equal contents list the same bytes, and rising lists with the same bytes are equal. -/
theorem equalContentsAreEqualMemories : Obligations.EqualContentsAreEqualMemories :=
  fun _ _ _ h h' hread => eq_of_lookup_eq h h' fun a => lookup_eq_of_read_eq h h' (hread a)

end Sys2Proof.Machine
end

section
/-! SUPPORT. `CLEAR` and `DRAW` on the frame buffer (spec/44_display.md), the key skips and `WAITK`
(spec/45_keys_timers.md sections 1 and 2). -/

namespace Sys2Proof.Machine

/-! ### CLEAR (R210) -/

/-- Settles O52: `CLEAR` replaces the frame buffer by the blank one and advances. -/
theorem clearTurnsEveryPixelOff : Obligations.ClearTurnsEveryPixelOff :=
  ⟨rowDecodes_of_mem (r := ⟨.clear, 0x00E0, 0xF0FF⟩) (by decide) fun _ => rfl,
    fun _ s => ⟨(s.setFrame Frame.blank).advance, rfl, pixel_blank, rfl, rfl, rfl,
      readByte_setFrame s Frame.blank⟩⟩

/-! ### DRAW (R211 to R214) -/

/-- The state after a `DRAW` in range. -/
def State.drawn (s : State) (x y n : Nibble) : State := effectOf (.draw x y n) s

theorem exec_draw_in_range {n : Nibble} {s : State} (h : n = 0 ∨ s.i.toNat + n.toNat - 1 ≤ 4095) (x y : Nibble) :
    exec (.draw x y n) s = .next (s.drawn x y n) := by
  apply exec_of_haltOf_eq_none
  rw [haltOf, if_neg]
  obtain rfl | h := h
  · exact fun hc => absurd hc.1 (by decide)
  · omega

theorem exec_draw_out_of_range {n : Nibble} {s : State} (hn : n ≠ 0) (h : 4095 < s.i.toNat + n.toNat - 1) (x y : Nibble) :
    exec (.draw x y n) s = .next { s with halted := true, haltCause := 4, haltInfo := s.i } := by
  apply exec_of_haltOf_eq_some
  have hpos : 0 < n.toNat := by bv_omega
  rw [haltOf, if_pos ⟨hpos, h⟩]

/-- Every pixel after a `DRAW` is the XOR of what it was and the sprite's bit (R214). -/
theorem pixel_drawn (s : State) (x y n : Nibble) (px : Fin 64) (py : Fin 32) :
    (s.drawn x y n).fb.pixel px py =
      (s.fb.pixel px py ^^ spriteToggles s (s.getV x) (s.getV y) n.toNat px py) :=
  (drawSprite_spec s (s.getV x) (s.getV y) n.toNat (by omega)).1 px py

/-- `V[15]` after a `DRAW` is the collision, and the collision is a pixel that was on under a bit of the sprite (R214). -/
theorem getV_drawn_15 (s : State) (x y n : Nibble) :
    (s.drawn x y n).getV 15 = flagByte (spriteCollides s (s.getV x) (s.getV y) n.toNat) := by
  rw [← (drawSprite_spec s (s.getV x) (s.getV y) n.toNat (by omega)).2]
  exact getV_setV_same _ 15 _

/-- The frame of a `DRAW` in range (R20, R23). -/
theorem drawn_frame (s : State) (x y n : Nibble) : s.drawn x y n =
    { s with v := (s.drawn x y n).v, fb := (s.drawn x y n).fb, redrawPending := true, pc := s.pc + 2 } :=
  rfl

/-- A pixel changes exactly where the sprite has a bit (R212, R213). -/
theorem pixel_drawn_ne_iff (s : State) (x y n : Nibble) (px : Fin 64) (py : Fin 32) :
    (s.drawn x y n).fb.pixel px py ≠ s.fb.pixel px py ↔
      SpriteToggles s (s.getV x) (s.getV y) n.toNat px py := by
  rw [pixel_drawn, SpriteToggles, ← spriteToggles_iff]
  cases spriteToggles s (s.getV x) (s.getV y) n.toNat px py <;> simp

/-- The flag is set exactly where a pixel went from on to off (R214). -/
theorem getV_drawn_15_eq_one_iff (s : State) (x y n : Nibble) :
    (s.drawn x y n).getV 15 = 1 ↔ ∃ px py, s.fb.pixel px py = true ∧ (s.drawn x y n).fb.pixel px py = false := by
  rw [getV_drawn_15, flagByte_eq_one, spriteCollides_iff]
  refine exists_congr fun px => exists_congr fun py => and_congr_right fun hon => ?_
  rw [pixel_drawn, hon]
  simp

/-- Settles O53: in range every pixel is an XOR with the sprite and the flag the collision; out of range the check
raises. -/
theorem drawXorsTheSpriteAndReportsCollision : Obligations.DrawXorsTheSpriteAndReportsCollision := by
  refine ⟨rowDecodes_of_mem (r := ⟨.draw, 0xD000, 0xF000⟩) (by decide) fun _ => rfl,
    fun x y n s => ⟨fun h => ?_, fun hn h => exec_draw_out_of_range hn h x y⟩⟩
  have hflag : (s.drawn x y n).getV 15 = 0 ∨ (s.drawn x y n).getV 15 = 1 := by
    rw [getV_drawn_15]
    cases spriteCollides s (s.getV x) (s.getV y) n.toNat <;> decide
  have hregs : RegsUnchangedBut s (s.drawn x y n) [15] := fun j hj =>
    getV_effectOf (i := .draw x y n) (List.ne_of_not_mem_cons hj) s
  exact ⟨s.drawn x y n, exec_draw_in_range h x y, pixel_drawn_ne_iff s x y n, getV_drawn_15_eq_one_iff s x y n, hflag, rfl,
    rfl, hregs, drawn_frame s x y n, fun _ => rfl⟩

/-- The sprite does not depend on the frame buffer it is drawn to (R212). -/
theorem spriteToggles_congr {s t : State} (hi : t.i = s.i) (hmem : MemoryUnchanged s t) (vx vy : Byte) (n : Nat)
    (px : Fin 64) (py : Fin 32) : spriteToggles t vx vy n px py = spriteToggles s vx vy n px py := by
  rw [Bool.eq_iff_iff, spriteToggles_iff, spriteToggles_iff, hi]
  simp only [hmem _]

/-- Settles O54: the second draw XORs the same sprite again, and meets a pixel that is on exactly where the first set it. -/
theorem drawingTwiceRestoresTheFrame : Obligations.DrawingTwiceRestoresTheFrame := by
  intro x y n s t h ht hx hy
  obtain rfl : s.drawn x y n = t := Host.Outcome.next.inj ((exec_draw_in_range h x y).symm.trans ht)
  set t := s.drawn x y n
  have hrange : n = 0 ∨ t.i.toNat + n.toNat - 1 ≤ 4095 := h
  have hsame : ∀ px py, spriteToggles t (t.getV x) (t.getV y) n.toNat px py =
      spriteToggles s (s.getV x) (s.getV y) n.toNat px py := by
    rw [hx, hy]
    exact spriteToggles_congr rfl (fun _ => rfl) _ _ _
  have hback : ∀ px py, (t.drawn x y n).fb.pixel px py = s.fb.pixel px py := by
    intro px py
    rw [pixel_drawn, hsame, pixel_drawn, Bool.xor_assoc, Bool.xor_self, Bool.xor_false]
  refine ⟨t.drawn x y n, exec_draw_in_range hrange x y, frame_ext hback, ?_⟩
  rw [getV_drawn_15_eq_one_iff]
  simp only [hback, and_comm]

/-! ### Keys (R230, R231, R233) -/

/-- Settles O55: both are skips on the one test of the whole byte, one of them negated. -/
theorem keySkipsTestTheWholeByte : Obligations.KeySkipsTestTheWholeByte := by
  refine ⟨rowDecodes_of_mem (r := ⟨.skp, 0xE09E, 0xF0FF⟩) (by decide) fun _ => rfl,
    rowDecodes_of_mem (r := ⟨.sknp, 0xE0A1, 0xF0FF⟩) (by decide) fun _ => rfl, fun x s => ?_⟩
  have hskp : NextPcIs (.skp x) s _ := pc_effectOf (.skp x) s
  have hsknp : NextPcIs (.sknp x) s _ := pc_effectOf (.sknp x) s
  exact ⟨_, _, rfl, rfl, fun hdown => ⟨hskp.1 hdown, hsknp.2 (not_not_intro hdown)⟩,
    fun hup => ⟨hskp.2 hup, hsknp.1 hup⟩, onlyPcChanged_setPc s _, onlyPcChanged_setPc s _⟩

/-- Settles O56: the scan finds nothing or the lowest key; nothing leaves the state, a key is one write of `V[x]`. -/
theorem waitkTakesTheLowestKeyOrStays : Obligations.WaitkTakesTheLowestKeyOrStays := by
  refine ⟨rowDecodes_of_mem (r := ⟨.waitk, 0xF00A, 0xF0FF⟩) (by decide) fun _ => rfl,
    fun x s => ⟨fun hup => ?_, fun k hdown hlowest => ?_⟩⟩
  · rw [exec, execWaitk, (firstKeyDown_eq_none s).2 hup]
  · obtain ⟨hval, hpc, hframe⟩ := setV_advance_spec s x (BitVec.ofNat 8 k.val)
    refine ⟨(s.setV x (BitVec.ofNat 8 k.val)).advance, ?_, ?_, hpc, hframe⟩
    · rw [exec, execWaitk, (firstKeyDown_eq_some s k).2 ⟨hdown, hlowest⟩]
    · rw [hval, BitVec.toNat_ofNat]
      omega

end Sys2Proof.Machine
end
